-- ==== Sys2Proof/Word.lean ====
section
/-! DEFINITION. The words of HUFF-CORE: 32-bit registers and command words (R7 `REG_W`), bytes, the symbol
space 0..256 (R7 `NSYM`, R13) and bit sequences in stream order (R9). -/

namespace Sys2Proof

/-- A host register or a command word, 32 bits (R7 `REG_W`, R88). -/
abbrev Word := BitVec 32

/-- A literal byte value, 0..255 (R13). -/
abbrev Byte := BitVec 8

/-- A symbol, 0..256: a byte or the sentinel (R7 `NSYM` = 257, R13). -/
abbrev Symbol := Fin 257

/-- A bit sequence, first bit of the stream first (R9); `true` is a 1 bit. -/
abbrev Bits := List Bool

end Sys2Proof
end

