-- ==== Sys2Proof/Syntax.lean ====
section
/-! DEFINITION. The 24 commands of HUFF-CORE, one constructor per row of the opcode map (R92), with the
operand fields of R88 to R90 at their encoded widths. -/

namespace Sys2Proof

/-- A command (R92). A symbol operand is the 9-bit SYM field; that it is at most 256 is `Instr.wellFormed`. -/
inductive Instr where
  /-- NOP, opcode 0x00 (R250). -/
  | nop
  /-- SRESET, opcode 0x01 (R251). -/
  | sreset
  /-- CLRERR, opcode 0x02 (R252). -/
  | clrerr
  /-- FREQ_INIT, opcode 0x10 (R130). -/
  | freqInit
  /-- FREQ_ADD b, opcode 0x11 (R131). -/
  | freqAdd (b : Byte)
  /-- FREQ_SCAN, opcode 0x12 (R132). -/
  | freqScan
  /-- FREQ_READ s, opcode 0x13 (R133). -/
  | freqRead (s : BitVec 9)
  /-- TREE_BUILD, opcode 0x20 (R150). -/
  | treeBuild
  /-- CODE_DERIVE, opcode 0x30 (R180). -/
  | codeDerive
  /-- CODE_READ s, k, opcode 0x31 (R181). -/
  | codeRead (s : BitVec 9) (k : BitVec 3)
  /-- MAGIC_WRITE, opcode 0x40 (R200). -/
  | magicWrite
  /-- HDR_WRITE, opcode 0x41 (R201). -/
  | hdrWrite
  /-- MAGIC_READ, opcode 0x42 (R204). -/
  | magicRead
  /-- HDR_READ, opcode 0x43 (R205). -/
  | hdrRead
  /-- ENC_SYM s, opcode 0x50 (R216). -/
  | encSym (s : BitVec 9)
  /-- ENC_PASS, opcode 0x51 (R217). -/
  | encPass
  /-- DEC_RESTART, opcode 0x60 (R229). -/
  | decRestart
  /-- DEC_BIT, opcode 0x61 (R231). -/
  | decBit
  /-- DEC_SYM, opcode 0x62 (R232). -/
  | decSym
  /-- DEC_PASS, opcode 0x63 (R233). -/
  | decPass
  /-- IN_RESET, opcode 0x70 (R253). -/
  | inReset
  /-- OUT_FLUSH, opcode 0x71 (R254). -/
  | outFlush
  /-- COMPRESS, opcode 0x80 (R257). -/
  | compress
  /-- DECOMPRESS, opcode 0x81 (R258). -/
  | decompress
  deriving DecidableEq, Repr

end Sys2Proof
end

