-- ==== Sys2Proof/WellFormed.lean ====
section
/-! DEFINITION. Which commands are well-formed: a symbol operand is in 0..256 (R89). The byte operand of
FREQ_ADD and the window of CODE_READ use every value of their fields. -/

namespace Sys2Proof

/-- The operand check of R89 and R93: "a symbol operand `s` with `s <= 256` required". -/
def symbolInRange (s : BitVec 9) : Bool := decide (s.toNat ≤ 256)

/-- A well-formed command: one that some command word encodes (R93). -/
def Instr.wellFormed : Instr → Bool
  | .freqRead s => symbolInRange s
  | .codeRead s _ => symbolInRange s
  | .encSym s => symbolInRange s
  | .nop | .sreset | .clrerr | .freqInit | .freqAdd _ | .freqScan | .treeBuild | .codeDerive
  | .magicWrite | .hdrWrite | .magicRead | .hdrRead | .encPass | .decRestart | .decBit | .decSym
  | .decPass | .inReset | .outFlush | .compress | .decompress => true

end Sys2Proof
end

