-- ==== Sys2Proof/Decode.lean ====
section
/-! DEFINITION. Command words: the fields of R88, the decoder of R93 with a name for each ground of R94, and the
encoder of R95. Both are written from the tables of 30_encoding.md. -/

namespace Sys2Proof

/-- OPCODE, bits 7:0 of a command word (R88). -/
def opcodeField (w : Word) : BitVec 8 := w.extractLsb' 0 8

/-- SYM, bits 16:8 of a command word (R88, R89). -/
def symField (w : Word) : BitVec 9 := w.extractLsb' 8 9

/-- WORD, bits 19:17 of a command word (R88, R90). -/
def wordField (w : Word) : BitVec 3 := w.extractLsb' 17 3

/-- RSV, bits 31:20 of a command word (R88, R91). -/
def rsvField (w : Word) : BitVec 12 := w.extractLsb' 20 12

/-- Why a word is ILLEGAL (R94): one name for each ground the rule lists. -/
inductive IllegalWord where
  /-- "any RSV bit set". -/
  | reservedBits
  /-- "the 232 unassigned OPCODE values". -/
  | unassignedOpcode
  /-- "an operand field that is nonzero where the command takes none". -/
  | strayOperand
  /-- "FREQ_ADD with bit 16 set". -/
  | byteOperandTooWide
  /-- "FREQ_READ, CODE_READ or ENC_SYM with SYM in 257..511". -/
  | symbolOutOfRange
  deriving DecidableEq, Repr

/-- What R93's `decode` answers: a command with its operands, or ILLEGAL. -/
inductive Decoded where
  | command (i : Instr)
  | illegal (why : IllegalWord)
  deriving DecidableEq, Repr

/-- The opcodes of the commands that take no operand, the last list of R93 with the map of R92. -/
def plainOpcodes : List (BitVec 8 × Instr) :=
  [(0x00, .nop), (0x01, .sreset), (0x02, .clrerr),
   (0x10, .freqInit), (0x12, .freqScan),
   (0x20, .treeBuild), (0x30, .codeDerive),
   (0x40, .magicWrite), (0x41, .hdrWrite), (0x42, .magicRead), (0x43, .hdrRead),
   (0x51, .encPass),
   (0x60, .decRestart), (0x61, .decBit), (0x62, .decSym), (0x63, .decPass),
   (0x70, .inReset), (0x71, .outFlush),
   (0x80, .compress), (0x81, .decompress)]

/-- FREQ_ADD's operand: a byte, with SYM's top bit and WORD zero (R89, R93). -/
def decodeByteForm (s : BitVec 9) (k : BitVec 3) : Decoded :=
  if s.getLsbD 8 then .illegal .byteOperandTooWide
  else if k ≠ 0 then .illegal .strayOperand
  else .command (.freqAdd (s.extractLsb' 0 8))

/-- A command with a symbol operand alone (R93: FREQ_READ, ENC_SYM): WORD zero, SYM at most 256. -/
def decodeSymbolForm (mk : BitVec 9 → Instr) (s : BitVec 9) (k : BitVec 3) : Decoded :=
  if k ≠ 0 then .illegal .strayOperand
  else if symbolInRange s then .command (mk s)
  else .illegal .symbolOutOfRange

/-- CODE_READ's operands: a symbol at most 256 and any window (R93). -/
def decodeWindowForm (s : BitVec 9) (k : BitVec 3) : Decoded :=
  if symbolInRange s then .command (.codeRead s k) else .illegal .symbolOutOfRange

/-- A command without operands: SYM and WORD zero (R93); any other opcode is unassigned (R94). -/
def decodePlainForm (op : BitVec 8) (s : BitVec 9) (k : BitVec 3) : Decoded :=
  match plainOpcodes.lookup op with
  | none => .illegal .unassignedOpcode
  | some i => if s ≠ 0 ∨ k ≠ 0 then .illegal .strayOperand else .command i

/-- R93: decoding a command word, a total function. -/
def decodeWord (w : Word) : Decoded :=
  let op := opcodeField w
  let s := symField w
  let k := wordField w
  if rsvField w ≠ 0 then .illegal .reservedBits
  else if op = 0x11 then decodeByteForm s k
  else if op = 0x13 then decodeSymbolForm .freqRead s k
  else if op = 0x50 then decodeSymbolForm .encSym s k
  else if op = 0x31 then decodeWindowForm s k
  else decodePlainForm op s k

/-- The OPCODE of a command (R92). -/
def opcodeOf : Instr → BitVec 8
  | .nop => 0x00
  | .sreset => 0x01
  | .clrerr => 0x02
  | .freqInit => 0x10
  | .freqAdd _ => 0x11
  | .freqScan => 0x12
  | .freqRead _ => 0x13
  | .treeBuild => 0x20
  | .codeDerive => 0x30
  | .codeRead _ _ => 0x31
  | .magicWrite => 0x40
  | .hdrWrite => 0x41
  | .magicRead => 0x42
  | .hdrRead => 0x43
  | .encSym _ => 0x50
  | .encPass => 0x51
  | .decRestart => 0x60
  | .decBit => 0x61
  | .decSym => 0x62
  | .decPass => 0x63
  | .inReset => 0x70
  | .outFlush => 0x71
  | .compress => 0x80
  | .decompress => 0x81

/-- The SYM field a command is encoded with: its byte or symbol operand, else 0 (R88, R89). -/
def symOperand : Instr → BitVec 9
  | .freqAdd b => b.setWidth 9
  | .freqRead s => s
  | .codeRead s _ => s
  | .encSym s => s
  | .nop | .sreset | .clrerr | .freqInit | .freqScan | .treeBuild | .codeDerive
  | .magicWrite | .hdrWrite | .magicRead | .hdrRead | .encPass | .decRestart | .decBit | .decSym
  | .decPass | .inReset | .outFlush | .compress | .decompress => 0

/-- The WORD field a command is encoded with: CODE_READ's window, else 0 (R88, R90). -/
def wordOperand : Instr → BitVec 3
  | .codeRead _ k => k
  | .freqAdd _ | .freqRead _ | .encSym _
  | .nop | .sreset | .clrerr | .freqInit | .freqScan | .treeBuild | .codeDerive
  | .magicWrite | .hdrWrite | .magicRead | .hdrRead | .encPass | .decRestart | .decBit | .decSym
  | .decPass | .inReset | .outFlush | .compress | .decompress => 0

/-- The word of a command, `op | (operand << 8) | (k << 17)` (R95), as the concatenation of its fields (R88). -/
def encode (i : Instr) : Word := (0 : BitVec 12) ++ wordOperand i ++ symOperand i ++ opcodeOf i

/-- The opcode-table probe of the host: the instruction the decoder reads from a word given by its low `nbits`
bits, every bit above them zero. A command is one 32-bit word captured whole (R80, R88), so no byte order shows. -/
def decodeTableWord (nbits w : Nat) : Option Instr :=
  match decodeWord (BitVec.ofNat 32 (w % 2 ^ nbits)) with
  | .command i => some i
  | .illegal _ => none

/-- `ENC_EOS` = `ENC_SYM 256` (R95). -/
def encEos : Instr := .encSym 256

/-- `FREQ_READ_EOS` = `FREQ_READ 256` (R95). -/
def freqReadEos : Instr := .freqRead 256

/-- `CODE_LEN s` = `CODE_READ s, 0` (R95). -/
def codeLen (s : BitVec 9) : Instr := .codeRead s 0

/-- The commands that take no operand, by mnemonic (R95). -/
def plainMnemonics : List (String × Instr) :=
  [("NOP", .nop), ("SRESET", .sreset), ("CLRERR", .clrerr), ("FREQ_INIT", .freqInit),
   ("FREQ_SCAN", .freqScan), ("TREE_BUILD", .treeBuild), ("CODE_DERIVE", .codeDerive),
   ("MAGIC_WRITE", .magicWrite), ("HDR_WRITE", .hdrWrite), ("MAGIC_READ", .magicRead),
   ("HDR_READ", .hdrRead), ("ENC_PASS", .encPass), ("DEC_RESTART", .decRestart),
   ("DEC_BIT", .decBit), ("DEC_SYM", .decSym), ("DEC_PASS", .decPass), ("IN_RESET", .inReset),
   ("OUT_FLUSH", .outFlush), ("COMPRESS", .compress), ("DECOMPRESS", .decompress),
   ("ENC_EOS", encEos), ("FREQ_READ_EOS", freqReadEos)]

/-- One assembler line: a mnemonic and its operands (R95). `none` where the mnemonic is unknown, an operand is
missing or left over, or an operand is out of the range R95 gives it. -/
def assembleLine (mnemonic : String) (operands : List Nat) : Option Instr :=
  match operands with
  | [] => plainMnemonics.lookup mnemonic
  | [x] =>
    if mnemonic = "FREQ_ADD" then (if x ≤ 255 then some (.freqAdd (BitVec.ofNat 8 x)) else none)
    else if mnemonic = "FREQ_READ" then (if x ≤ 256 then some (.freqRead (BitVec.ofNat 9 x)) else none)
    else if mnemonic = "ENC_SYM" then (if x ≤ 256 then some (.encSym (BitVec.ofNat 9 x)) else none)
    else if mnemonic = "CODE_LEN" then (if x ≤ 256 then some (codeLen (BitVec.ofNat 9 x)) else none)
    else none
  | [x, k] =>
    if mnemonic = "CODE_READ" then
      (if x ≤ 256 ∧ k ≤ 7 then some (.codeRead (BitVec.ofNat 9 x) (BitVec.ofNat 3 k)) else none)
    else none
  | _ => none

end Sys2Proof
end

