-- ==== Sys2Proof/Config.lean ====
section
/-! DEFINITION. What the spec fixes for this hardware (R7) and the free values it leaves open (R49).
`MAGIC_VALUE`, the one parameter of R7, is held in `State.magic`, so that a claim over all states holds for
every value of it; its default stands here. -/

namespace Sys2Proof.Config

/-- The end-of-stream sentinel symbol (R7 `EOS`). -/
def eos : Symbol := 256

/-- The default of the parameter `MAGIC_VALUE` (R7). DESIGN CHOICE of the spec itself (D7). -/
def magicDefault : Word := 0xFACE8201

/-- The value of the ID register, ASCII "HUF1" (R23). -/
def idValue : Word := 0x48554631

/-- The largest frequency count, `2^CNT_W - 1` (R7, R134). -/
def countMax : Word := 0xFFFFFFFF

/-- The node store's capacity, `NODE_CAP` = 2 * 257 - 1 (R7). -/
def nodeCap : Nat := 513

/-- The min-heap's capacity, `HEAP_CAP` (R7). -/
def heapCap : Nat := 257

/-- The longest code any tree of the node store can give, `MAX_CODE_LEN` (R7). -/
def maxCodeLen : Nat := 256

/-- The width of a node weight, `WGT_W` (R7). -/
def weightWidth : Nat := 41

/-- FREE VALUE: what the `n`-th host read of RESULT, CODE_BITS, TREE_INFO or DEC_STATE while BUSY = 1 returns,
"an unspecified 32-bit value (a model draws it freely)" (R49, U8). No body: nothing constrains it. -/
opaque freeRead : Nat → Word

end Sys2Proof.Config
end

