-- ==== Sys2Proof/Machine/State.lean ====
section
/-! DEFINITION. The state of HUFF-CORE, all of it plain data: the registers and tables of 10_state.md, the port
state a model carries (R46), the pending moves of the host and the environment's draws, the reasons a step can
stop, and the state after reset (R47). -/

namespace Sys2Proof.Machine

/-- A code tree value (R11): "`Leaf(s)` with symbol `s` in 0..256, or `Node(l, r)`". -/
inductive Tree where
  | leaf (s : Symbol)
  | node (l r : Tree)
  deriving DecidableEq, Repr

/-- DSTATE, the decoder's state (R44). -/
inductive DState where
  | unarmed
  | atRoot
  | midPath
  | done
  deriving DecidableEq, Repr

/-- The errors a command can end with, codes 1 to 10 of R270. -/
inductive ErrorKind where
  | unrecognizedFormat
  | malformedHeader
  | missingTerminator
  | ioError
  | illegalCommand
  | noTree
  | noCodes
  | noCode
  | countOverflow
  | decoderDone
  deriving DecidableEq, Repr

/-- What the host can do (R83), and `wait`, the step it leaves to the engine (R95 `WAIT`). -/
inductive HostMove where
  /-- A write of `value` at a window offset, `width` bits wide (R71, R72). -/
  | write (offset : BitVec 8) (width : Nat) (value : Word)
  /-- A read at a window offset, `width` bits wide (R71, R72). -/
  | read (offset : BitVec 8) (width : Nat)
  /-- "load input": a new byte sequence (R83, R66). -/
  | loadInput (bytes : List Byte)
  /-- "drain output": takes OUT_BITS (R83). -/
  | drainOutput
  /-- "assert reset", at any time (R83, R290). While BUSY = 1 it abandons the running command after `subOps` whole
  sub-operations and, where `portOps > 0`, after `portOps - 1` port operations of the next one. -/
  | assertReset (subOps portOps : Nat)
  /-- The host makes no access: the engine takes its step if BUSY = 1 (R101), and is idle otherwise (R288). -/
  | wait
  deriving DecidableEq, Repr

/-- What the host gets back from a move (R83). -/
inductive HostReply where
  /-- The value of a register read. -/
  | value (w : Word)
  /-- The bits of a drain. -/
  | bits (b : Bits)
  deriving DecidableEq, Repr

/-- The state of the machine. STATUS.TREE_VALID is the view `tree.isSome` (R29); ID and CMD hold no state (R23, R24);
TREE_INFO and DEC_STATE are views (R35, R36). -/
structure State where
  /-- STATUS.BUSY (R26). -/
  busy : Bool
  /-- STATUS.ERR (R27). -/
  err : Bool
  /-- STATUS.CMD_DROPPED (R28). -/
  cmdDropped : Bool
  /-- STATUS.CODES_VALID (R30). -/
  codesValid : Bool
  /-- STATUS.ERRCODE (R27). -/
  errCode : BitVec 4
  /-- STATUS.LAST_OP (R31). -/
  lastOp : BitVec 8
  /-- MAGIC, the build parameter `MAGIC_VALUE` (R32); no operation writes it. -/
  magic : Word
  /-- RESULT (R33). -/
  result : Word
  /-- CODE_BITS (R34). -/
  codeBits : Word
  /-- The frequency table FREQ (R37). -/
  freq : Vector Word 257
  /-- The tree register TREE, `none` for nothing (R39). -/
  tree : Option Tree
  /-- HEAP[0..HSIZE-1], node-store indices; HSIZE is its length (R41). -/
  heap : List (BitVec 10)
  /-- The code table CODE (R42). -/
  code : Vector (Option Bits) 257
  /-- The header reader's stack of pending internal nodes, innermost first, each with its left subtree once that
  has been read (R43). -/
  hdrStack : List (Option Tree)
  /-- The header reader's count of nodes read (R43). -/
  hdrCount : BitVec 10
  /-- DSTATE (R44). -/
  dstate : DState
  /-- DPATH (R44). -/
  dpath : Bits
  /-- The pending-command latch PEND (R45). -/
  pend : Word
  /-- IN_BITS (R46). -/
  inBits : Bits
  /-- IN_POS (R46). -/
  inPos : Nat
  /-- OUT_BITS (R46). -/
  outBits : Bits
  /-- The model's own: for each coming port operation, whether the environment draws an I/O failure there (R82); past
  the end of the list there is none. -/
  portDraws : List Bool
  /-- The model's own: the host's coming moves, the next one first (R75, R83). -/
  hostMoves : List HostMove
  /-- The model's own: what the host got back, oldest first (R83). -/
  hostReplies : List HostReply
  /-- The model's own: how many unspecified values have been drawn (R49). -/
  freeDraws : Nat
  deriving DecidableEq, Repr

/-- Why the machine stops with a fault. Each is raised only in states no run reaches, and each is SAFE: the model
stops where the spec gives no behaviour. -/
inductive Fault where
  /-- Raised by the decoder's step when it asks for `sub(t, p)` at a path outside the tree, or with no tree: "fault if
  ever reached; no rule reaches it" (R108, U17). Safe. -/
  | pathOutsideTree
  /-- Raised by TREE_BUILD when no symbol has a count, so that the heap is empty: R150 says "P is never empty, because
  FREQ[256] = 1". Safe. -/
  | heapEmpty
  /-- Raised by a loop that has used up its bound of R105: only DEC_PASS under a tree that is one non-sentinel leaf,
  which no run reaches (R39), loops for ever (D31). Safe. -/
  | nonterminating
  deriving DecidableEq, Repr

/-- Why the model gives a step no meaning. -/
inductive Refusal where
  /-- Answered by `exec` for a command not modelled yet, by its mnemonic. Safe. -/
  | notModelled (mnemonic : String)
  /-- Answered for a host access that is not 32 bits wide or not at a multiple of 4: "a model refuses it" (R71, U9).
  Safe. -/
  | unsupportedAccess
  /-- Answered when the host loads the input or drains the output while BUSY = 1: "refuse (no move in the model)"
  (R83, U10). Safe. -/
  | streamChangeWhileBusy
  deriving DecidableEq, Repr

/-- FREQ as reset and FREQ_INIT leave it (R47, R130): 0 for every byte, 1 for the sentinel. -/
def freqInitial : Vector Word 257 := (Vector.replicate 257 0).set 256 1

/-- CODE with no entry (R180). -/
def codeNone : Vector (Option Bits) 257 := Vector.replicate 257 none

/-- The machine right after reset (R47). HEAP, CODE, the header reader's stack and count, and PEND are "unspecified
and unobservable" there: DESIGN CHOICE, unsafe, log 6. The port state is not changed by reset and starts empty:
DESIGN CHOICE, unsafe, log 7. MAGIC holds the default of its parameter: log 4. -/
def State.reset : State where
  busy := false
  err := false
  cmdDropped := false
  codesValid := false
  errCode := 0
  lastOp := 0
  magic := Config.magicDefault
  result := 0
  codeBits := 0
  freq := freqInitial
  tree := none
  heap := []
  code := codeNone
  hdrStack := []
  hdrCount := 0
  dstate := .unarmed
  dpath := []
  pend := 0
  inBits := []
  inPos := 0
  outBits := []
  portDraws := []
  hostMoves := []
  hostReplies := []
  freeDraws := 0

end Sys2Proof.Machine
end

