-- ==== Sys2Proof/Machine/Bits.lean ====
section
/-! DEFINITION. Bit sequences and numbers (R9), bytes and bits on the streams (R66 to R68). -/

namespace Sys2Proof.Machine

/-- `num(c)` (R9): the numeral a bit sequence spells, its first bit the most significant. -/
def num (c : Bits) : Nat := c.foldl (fun v b => 2 * v + b.toNat) 0

/-- `bits_N(v)` (R9): the `n` bits of `v`, most significant first. -/
def bitsOf {n : Nat} (v : BitVec n) : Bits := (List.range n).map fun i => v.getMsbD i

/-- The bits of the stream a byte sequence supplies (R66): bit 7 of the first byte first. -/
def bytesToBits (bs : List Byte) : Bits := bs.flatMap fun b => bitsOf b

/-- The whole bytes of a bit stream (R67), `k` of them: the first bit is bit 7 of the first byte. -/
def bitsToBytes : Nat → Bits → List Byte
  | 0, _ => []
  | k + 1, c => BitVec.ofNat 8 (num (c.take 8)) :: bitsToBytes k (c.drop 8)

/-- The bytes OUT_BITS stands for after OutFlush (R67). -/
def wholeBytes (c : Bits) : List Byte := bitsToBytes (c.length / 8) c

/-- How many zero bits complete the last byte of a stream of `len` bits (R65): 0 to 7. -/
def padLength (len : Nat) : Nat := (8 - len % 8) % 8

/-- The output stream after the pad of R65. -/
def padToByte (c : Bits) : Bits := c ++ List.replicate (padLength c.length) false

end Sys2Proof.Machine
end

