-- ==== Sys2Proof/Machine/Tree.lean ====
section
/-! DEFINITION. The functions of code trees: R11, `sub` of R108, the serialization of R202 and the code table of
R180 and R182. -/

namespace Sys2Proof.Machine

/-- `leaves(t)` (R11): the leaf symbols in preorder. -/
def treeLeaves : Tree → List Symbol
  | .leaf s => [s]
  | .node l r => treeLeaves l ++ treeLeaves r

/-- `size(t)` (R11): leaves plus internal nodes. -/
def treeSize : Tree → Nat
  | .leaf _ => 1
  | .node l r => treeSize l + treeSize r + 1

/-- The number of internal nodes (R99). -/
def treeInternal : Tree → Nat
  | .leaf _ => 0
  | .node l r => treeInternal l + treeInternal r + 1

/-- `depth(t)` (R11): the greatest number of edges from the root to a leaf. -/
def treeDepth : Tree → Nat
  | .leaf _ => 0
  | .node l r => max (treeDepth l) (treeDepth r) + 1

/-- `sub(t, p)` (R108): the subtree at a path, `none` where the rule leaves it undefined. -/
def subtree : Tree → Bits → Option Tree
  | t, [] => some t
  | .node l _, false :: p => subtree l p
  | .node _ r, true :: p => subtree r p
  | .leaf _, _ :: _ => none

/-- `ser(t)` (R202): a 0 bit, then the left and the right subtree; or a 1 bit, then the 9-bit symbol. -/
def serialize : Tree → Bits
  | .node l r => false :: (serialize l ++ serialize r)
  | .leaf s => true :: bitsOf (BitVec.ofNat 9 s.val)

/-- `walk` of R180: records the path of each leaf, left subtree first, a later leaf overwriting. -/
def walkCodes : Tree → Bits → Vector (Option Bits) 257 → Vector (Option Bits) 257
  | .leaf s, p, c => c.set s.val (some p)
  | .node l r, p, c => walkCodes r (p ++ [true]) (walkCodes l (p ++ [false]) c)

/-- `codes(t)` (R182): the table CODE_DERIVE computes from `t`. -/
def codesOf (t : Tree) : Vector (Option Bits) 257 := walkCodes t [] codeNone

end Sys2Proof.Machine
end

