-- ==== Sys2Proof/Machine/Operands.lean ====
section
/-! DEFINITION. Operand assembly (R89, R90): from the fields of a command word to symbols and code windows. -/

namespace Sys2Proof.Machine

/-- The symbol of a byte (R13): 0..255. -/
def byteSymbol (b : Byte) : Symbol := ⟨b.toNat, by have := b.isLt; omega⟩

/-- A 9-bit field as a symbol (R89, R97): "read as an unsigned 9-bit number", `none` for 257..511. -/
def symbolOf (v : BitVec 9) : Option Symbol :=
  if h : v.toNat < 257 then some ⟨v.toNat, h⟩ else none

/-- The byte a decoded symbol `s <= 255` stands for (R225). -/
def symbolByte (x : Symbol) : Byte := BitVec.ofNat 8 x.val

/-- The 9-bit field of a symbol (R203). -/
def symbolField (x : Symbol) : BitVec 9 := BitVec.ofNat 9 x.val

/-- Window `k` of a code (R90, R181): bits `[32k+31 : 32k]` of its numeral. -/
def codeWindow (c : Bits) (k : BitVec 3) : Word := BitVec.ofNat 32 (num c >>> (32 * k.toNat))

end Sys2Proof.Machine
end

