-- ==== Sys2Proof/Machine/Flags.lean ====
section
/-! DEFINITION. Every flag and status computation: the error codes (R270), the STATUS word (R25), the formats of
RESULT (R33, R230) and the views TREE_INFO (R35) and DEC_STATE (R36). -/

namespace Sys2Proof.Machine

/-- `code(E)`, the ERRCODE of an error (R270). -/
def errorCode : ErrorKind → BitVec 4
  | .unrecognizedFormat => 1
  | .malformedHeader => 2
  | .missingTerminator => 3
  | .ioError => 4
  | .illegalCommand => 5
  | .noTree => 6
  | .noCodes => 7
  | .noCode => 8
  | .countOverflow => 9
  | .decoderDone => 10

/-- STATUS.TREE_VALID: "1 exactly when the tree register TREE holds a tree" (R29). -/
def State.treeValid (s : State) : Bool := s.tree.isSome

/-- The STATUS register (R25): LAST_OP 23:16, ERRCODE 11:8, CODES_VALID 4, TREE_VALID 3, CMD_DROPPED 2, ERR 1,
BUSY 0, every other bit 0. -/
def statusWord (s : State) : Word :=
  (0 : BitVec 8) ++ s.lastOp ++ (0 : BitVec 4) ++ s.errCode ++ (0 : BitVec 3) ++ BitVec.ofBool s.codesValid
    ++ BitVec.ofBool s.treeValid ++ BitVec.ofBool s.cmdDropped ++ BitVec.ofBool s.err ++ BitVec.ofBool s.busy

/-- DSTATE as DEC_STATE encodes it (R36). -/
def dstateCode : DState → BitVec 2
  | .unarmed => 0
  | .atRoot => 1
  | .midPath => 2
  | .done => 3

/-- The TREE_INFO register (R35): the number of leaves in 24:16 and of nodes in 9:0, or 0 without a tree. -/
def treeInfoWord (s : State) : Word :=
  match s.tree with
  | none => 0
  | some t =>
    (0 : BitVec 7) ++ BitVec.ofNat 9 (treeLeaves t).length ++ (0 : BitVec 6) ++ BitVec.ofNat 10 (treeSize t)

/-- The DEC_STATE register (R36): `len(DPATH)` in 24:16 and DSTATE in 1:0. -/
def decStateWord (s : State) : Word :=
  (0 : BitVec 7) ++ BitVec.ofNat 9 s.dpath.length ++ (0 : BitVec 14) ++ dstateCode s.dstate

/-- RESULT after CODE_READ of a code (R33, R181): VALID in bit 31, the length in 8:0. -/
def codeResult (c : Bits) : Word := (1 : BitVec 1) ++ (0 : BitVec 22) ++ BitVec.ofNat 9 c.length

/-- RESULT after a decoder step reached a leaf (R33, R230): EOS in bit 17, LEAF in bit 16, the symbol in 8:0. -/
def leafResult (x : Symbol) : Word :=
  (0 : BitVec 14) ++ BitVec.ofBool (x == Config.eos) ++ (1 : BitVec 1) ++ (0 : BitVec 7) ++ symbolField x

end Sys2Proof.Machine
end

