-- ==== Sys2Proof/Machine/Ops.lean ====
section
/-! DEFINITION. The named operations every command shares: how a command's rule runs (R101 to R104), entering and
leaving the error state (R103, R252), the reset state (R47), the port operations (R61 to R65) and their
shorthand (R106), the preconditions (R107), and access to the tables (R86). -/

namespace Sys2Proof.Machine

/-- The end of a command's rule, or of a part of it: it reached its end with a value, it raised an error (R103), or the
model has no behaviour for it (`Fault`). -/
inductive Run (α : Type) where
  | done (a : α) (s : State)
  | raised (e : ErrorKind) (s : State)
  | stuck (f : Fault)
  deriving Repr

/-- One part of a rule after another: nothing after a raise happens (R103). -/
def Run.andThen {α β : Type} (r : Run α) (next : α → State → Run β) : Run β :=
  match r with
  | .done a s => next a s
  | .raised e s => .raised e s
  | .stuck f => .stuck f

/-- Taking an error, the abort of R103: "ERR <- 1, ERRCODE <- code(E), BUSY <- 0", every other write stays. -/
def State.abort (e : ErrorKind) (s : State) : State :=
  { s with err := true, errCode := errorCode e, busy := false }

/-- The normal end of a command (R102): "BUSY <- 0". -/
def State.finish (s : State) : State := { s with busy := false }

/-- Leaving the error state (R252, R278): "ERR <- 0; ERRCODE <- 0; CMD_DROPPED <- 0". -/
def State.clearError (s : State) : State := { s with err := false, errCode := 0, cmdDropped := false }

/-- Every state element of R47 to its reset value; MAGIC and the port state are not changed (R46, R47). -/
def State.resetEngine (s : State) : State :=
  { State.reset with
    magic := s.magic
    inBits := s.inBits
    inPos := s.inPos
    outBits := s.outBits
    portDraws := s.portDraws
    hostMoves := s.hostMoves
    hostReplies := s.hostReplies
    freeDraws := s.freeDraws }

/-- How a command's rule ends its command (R101 to R103): normally, or by its abort. -/
def endCommand (r : Run Unit) : Host.Outcome State Fault Refusal :=
  match r with
  | .done _ s => .next s.finish
  | .raised e s => .next (s.abort e)
  | .stuck f => .fault f

/-- The sub-operations of a sequencing command, in list order; the first raise ends them all (R104). -/
def runSteps : List (State → Run Unit) → State → Run Unit
  | [], s => .done () s
  | f :: fs, s => (f s).andThen fun _ t => runSteps fs t

/-- A loop of a rule, bounded as R105 bounds it: `f` answers whether to go round again. -/
def repeatWhile : Nat → (State → Run Bool) → State → Run Unit
  | 0, _, _ => .stuck .nonterminating
  | n + 1, f, s => (f s).andThen fun again t => if again then repeatWhile n f t else .done () t

/-! ### Port operations -/

/-- The environment's draw for one port operation: whether it answers an I/O failure (R82). -/
def drawPort (s : State) : Bool × State :=
  match s.portDraws with
  | [] => (false, s)
  | b :: rest => (b, { s with portDraws := rest })

/-- The number of input bits from IN_POS to the end. -/
def bitsLeft (s : State) : Nat := s.inBits.length - s.inPos

/-- What InRead answers (R61). -/
inductive ReadAnswer (n : Nat) where
  | data (v : BitVec n)
  | eod
  | ioErr
  deriving DecidableEq, Repr

/-- `InRead(n)` (R61): EOD consumes nothing; data is the next `n` bits, first bit most significant. -/
def portRead (n : Nat) (s : State) : ReadAnswer n × State :=
  match drawPort s with
  | (true, t) => (.ioErr, t)
  | (false, t) =>
    if t.inPos + n > t.inBits.length then (.eod, t)
    else (.data (BitVec.ofNat n (num ((t.inBits.drop t.inPos).take n))), { t with inPos := t.inPos + n })

/-- `InRead(n)?` with its end of data for the caller to see (R106, `EOD -> break`): IOErr raises IO_ERROR. -/
def readOrBreak (n : Nat) (s : State) : Run (Option (BitVec n)) :=
  match portRead n s with
  | (.data v, t) => .done (some v) t
  | (.eod, t) => .done none t
  | (.ioErr, t) => .raised .ioError t

/-- `v := InRead(n) or (EOD -> E)` (R106). -/
def readOrRaise (n : Nat) (e : ErrorKind) (s : State) : Run (BitVec n) :=
  (readOrBreak n s).andThen fun v t =>
    match v with
    | some v => .done v t
    | none => .raised e t

/-- `OutWrite(n, v)?` (R62, R106): appends `bits_n(v)`, or raises IO_ERROR with nothing appended. -/
def writeField {n : Nat} (v : BitVec n) (s : State) : Run Unit :=
  match drawPort s with
  | (true, t) => .raised .ioError t
  | (false, t) => .done () { t with outBits := t.outBits ++ bitsOf v }

/-- `OutWriteBits(c)?` (R63): one `OutWrite(1, b)` per bit, first bit first; the bits before a failure stay. -/
def writeBits : Bits → State → Run Unit
  | [], s => .done () s
  | b :: c, s => (writeField (BitVec.ofBool b) s).andThen fun _ t => writeBits c t

/-- `InReset()` (R64): IN_POS <- 0; it never fails. -/
def rewindInput (s : State) : State := { s with inPos := 0 }

/-- `OutFlush()?` (R65): zero bits to a byte boundary, or IO_ERROR with nothing appended. -/
def flushOutput (s : State) : Run Unit :=
  match drawPort s with
  | (true, t) => .raised .ioError t
  | (false, t) => .done () { t with outBits := padToByte t.outBits }

/-! ### Preconditions and tables -/

/-- `require_tree` (R107): the tree, or NO_TREE. -/
def requireTree (s : State) : Run Tree :=
  match s.tree with
  | some t => .done t s
  | none => .raised .noTree s

/-- `require_codes` (R107): NO_CODES when CODES_VALID = 0. -/
def requireCodes (s : State) : Run Unit :=
  if s.codesValid then .done () s else .raised .noCodes s

/-- The symbol operand of a command that was not checked at decode: outside 0..256 the word is illegal (R94). -/
def requireSymbol (v : BitVec 9) (s : State) : Run Symbol :=
  match symbolOf v with
  | some x => .done x s
  | none => .raised .illegalCommand s

/-- `FREQ[s]` (R86). -/
def State.count (s : State) (x : Symbol) : Word := s.freq[x]

/-- `CODE[s]` (R86). -/
def State.codeFor (s : State) (x : Symbol) : Option Bits := s.code[x]

/-- Counting one byte (R131, R132, R134): `+1`, or COUNT_OVERFLOW at `2^32 - 1` with the count unchanged. -/
def countByte (b : Byte) (s : State) : Run Unit :=
  if s.count (byteSymbol b) = Config.countMax then .raised .countOverflow s
  else .done () { s with freq := s.freq.set (byteSymbol b).val (s.count (byteSymbol b) + 1) }

/-- Emitting one symbol's code (R216, R217): NO_CODE for a symbol without one. -/
def emitSymbol (x : Symbol) (s : State) : Run Unit :=
  match s.codeFor x with
  | some c => writeBits c s
  | none => .raised .noCode s

/-- A new tree in TREE, with the decoder armed at its root (R150, R205). -/
def State.installTree (t : Tree) (s : State) : State :=
  { s with tree := some t, dstate := .atRoot, dpath := [] }

end Sys2Proof.Machine
end

