-- ==== Sys2Proof/Machine/CodeTable.lean ====
section
/-! DEFINITION. The code-table commands of 43_code_table.md: CODE_DERIVE and CODE_READ. -/

namespace Sys2Proof.Machine

/-- The body of CODE_DERIVE (R180): NO_TREE, or CODE <- codes(TREE) and CODES_VALID <- 1. -/
def codeDeriveBody (s : State) : Run Unit :=
  (requireTree s).andThen fun t u => .done () { u with code := codesOf t, codesValid := true }

/-- What CODE_READ writes (R181): 0 and 0 for a symbol without a code, else its length and the window. -/
def showCode (c : Option Bits) (k : BitVec 3) (s : State) : State :=
  match c with
  | none => { s with result := 0, codeBits := 0 }
  | some c => { s with result := codeResult c, codeBits := codeWindow c k }

/-- The body of CODE_READ (R181). -/
def codeReadBody (v : BitVec 9) (k : BitVec 3) (s : State) : Run Unit :=
  (requireSymbol v s).andThen fun x t =>
    (requireCodes t).andThen fun _ u => .done () (showCode (u.codeFor x) k u)

/-- CODE_DERIVE (R180). -/
def execCodeDerive (s : State) : Host.Outcome State Fault Refusal := endCommand (codeDeriveBody s)

/-- CODE_READ s, k (R181). -/
def execCodeRead (v : BitVec 9) (k : BitVec 3) (s : State) : Host.Outcome State Fault Refusal :=
  endCommand (codeReadBody v k s)

end Sys2Proof.Machine
end

