-- ==== Sys2Proof/Machine/Decoder.lean ====
section
/-! DEFINITION. The stream decoder of 46_stream_decoder.md: the state machine's step (R226, R230) and DEC_RESTART,
DEC_BIT, DEC_SYM, DEC_PASS. -/

namespace Sys2Proof.Machine

/-- `settle(s)` (R230): the sentinel ends the decoder; any other leaf is written as a byte, the state already at the
root. -/
def settleLeaf (x : Symbol) (s : State) : Run Unit :=
  if x = Config.eos then .done () { s with dpath := [], dstate := .done, result := leafResult x }
  else writeField (symbolByte x) { s with dpath := [], dstate := .atRoot, result := leafResult x }

/-- The node at DPATH, or the fault of U17 where there is none (R108). -/
def currentNode (s : State) : Run Tree :=
  match s.tree with
  | none => .stuck .pathOutsideTree
  | some t =>
    match subtree t s.dpath with
    | none => .stuck .pathOutsideTree
    | some n => .done n s

/-- What `dec_step` does after a bit (R230): settle a leaf, or stand mid-path with RESULT 0. -/
def arriveAt (n : Tree) (s : State) : Run Unit :=
  match n with
  | .leaf x => settleLeaf x s
  | .node _ _ => .done () { s with dstate := .midPath, result := 0 }

/-- `dec_step()` (R230): a leaf is settled before any bit is read (R227). -/
def decStep (s : State) : Run Unit :=
  (currentNode s).andThen fun n t =>
    match n with
    | .leaf x => settleLeaf x t
    | .node _ _ =>
      (readOrRaise 1 .missingTerminator t).andThen fun b u =>
        (currentNode { u with dpath := u.dpath ++ [b == 1] }).andThen fun m v => arriveAt m v

/-- The preconditions of DEC_BIT, DEC_SYM and DEC_PASS (R231): UNARMED raises NO_TREE, DONE raises DECODER_DONE. -/
def requireArmed (s : State) : Run Unit :=
  match s.dstate with
  | .unarmed => .raised .noTree s
  | .done => .raised .decoderDone s
  | .atRoot | .midPath => .done () s

/-- The body of DEC_RESTART (R229). -/
def decRestartBody (s : State) : Run Unit :=
  (requireTree s).andThen fun _ t => .done () { t with dstate := .atRoot, dpath := [] }

/-- The body of DEC_BIT (R231). -/
def decBitBody (s : State) : Run Unit := (requireArmed s).andThen fun _ t => decStep t

/-- One turn of DEC_SYM's loop (R232): go round again unless RESULT[16] = 1. -/
def decSymTurn (s : State) : Run Bool := (decStep s).andThen fun _ t => .done (!t.result.getLsbD 16) t

/-- The body of DEC_SYM (R232): every turn but the last reads a bit. -/
def decSymBody (s : State) : Run Unit :=
  (requireArmed s).andThen fun _ t => repeatWhile (bitsLeft t + 1) decSymTurn t

/-- One turn of DEC_PASS's loop (R233): go round again unless DSTATE = DONE. -/
def decPassTurn (s : State) : Run Bool := (decStep s).andThen fun _ t => .done (t.dstate != .done) t

/-- The body of DEC_PASS (R233): every turn but the last reads a bit when the root is internal (R105, R235). -/
def decPassBody (s : State) : Run Unit :=
  (requireArmed s).andThen fun _ t => repeatWhile (bitsLeft t + 1) decPassTurn t

/-- DEC_RESTART (R229). -/
def execDecRestart (s : State) : Host.Outcome State Fault Refusal := endCommand (decRestartBody s)

/-- DEC_BIT (R231). -/
def execDecBit (s : State) : Host.Outcome State Fault Refusal := endCommand (decBitBody s)

/-- DEC_SYM (R232). -/
def execDecSym (s : State) : Host.Outcome State Fault Refusal := endCommand (decSymBody s)

/-- DEC_PASS (R233). -/
def execDecPass (s : State) : Host.Outcome State Fault Refusal := endCommand (decPassBody s)

end Sys2Proof.Machine
end

