-- ==== Sys2Proof/Machine/Encoder.lean ====
section
/-! DEFINITION. The stream encoder of 45_stream_encoder.md: ENC_SYM and ENC_PASS. -/

namespace Sys2Proof.Machine

/-- `body(C, B)` (R211): the codes of the bytes in order, then the sentinel's; `none` where one has no code. -/
def bodyOf (table : Vector (Option Bits) 257) : List Byte → Option Bits
  | [] => table[Config.eos]
  | b :: bs =>
    match table[byteSymbol b], bodyOf table bs with
    | some x, some rest => some (x ++ rest)
    | _, _ => none

/-- The body of ENC_SYM (R216): NO_CODES, NO_CODE, or the code's bits. -/
def encSymBody (v : BitVec 9) (s : State) : Run Unit :=
  (requireSymbol v s).andThen fun x t => (requireCodes t).andThen fun _ u => emitSymbol x u

/-- One turn of ENC_PASS's loop (R217): a byte read and its code written, or the end of data. -/
def encPassTurn (s : State) : Run Bool :=
  (readOrBreak 8 s).andThen fun b t =>
    match b with
    | some b => (emitSymbol (byteSymbol b) t).andThen fun _ u => .done true u
    | none => .done false t

/-- The body of ENC_PASS (R217), at most `N / 8 + 1` reads (R105), then the sentinel's code. -/
def encPassBody (s : State) : Run Unit :=
  (requireCodes s).andThen fun _ t =>
    (repeatWhile (bitsLeft t / 8 + 1) encPassTurn t).andThen fun _ u => emitSymbol Config.eos u

/-- ENC_SYM s (R216). -/
def execEncSym (v : BitVec 9) (s : State) : Host.Outcome State Fault Refusal := endCommand (encSymBody v s)

/-- ENC_PASS (R217). -/
def execEncPass (s : State) : Host.Outcome State Fault Refusal := endCommand (encPassBody s)

end Sys2Proof.Machine
end

