-- ==== Sys2Proof/Machine/Frequency.lean ====
section
/-! DEFINITION. The frequency table commands of 41_frequency.md: FREQ_INIT, FREQ_ADD, FREQ_SCAN, FREQ_READ. -/

namespace Sys2Proof.Machine

/-- The body of FREQ_INIT (R130): FREQ[0..255] = 0, FREQ[256] = 1. -/
def freqInitBody (s : State) : Run Unit := .done () { s with freq := freqInitial }

/-- One turn of FREQ_SCAN's loop (R132): a byte read and counted, or the end of data. -/
def freqScanTurn (s : State) : Run Bool :=
  (readOrBreak 8 s).andThen fun b t =>
    match b with
    | some b => (countByte b t).andThen fun _ u => .done true u
    | none => .done false t

/-- The body of FREQ_SCAN (R132), at most `N / 8 + 1` reads (R105). -/
def freqScanBody (s : State) : Run Unit := repeatWhile (bitsLeft s / 8 + 1) freqScanTurn s

/-- The body of FREQ_READ (R133): RESULT <- zext_32(FREQ[s]). -/
def freqReadBody (v : BitVec 9) (s : State) : Run Unit :=
  (requireSymbol v s).andThen fun x t => .done () { t with result := t.count x }

/-- FREQ_INIT (R130). -/
def execFreqInit (s : State) : Host.Outcome State Fault Refusal := endCommand (freqInitBody s)

/-- FREQ_ADD b (R131). -/
def execFreqAdd (b : Byte) (s : State) : Host.Outcome State Fault Refusal := endCommand (countByte b s)

/-- FREQ_SCAN (R132). -/
def execFreqScan (s : State) : Host.Outcome State Fault Refusal := endCommand (freqScanBody s)

/-- FREQ_READ s (R133). -/
def execFreqRead (v : BitVec 9) (s : State) : Host.Outcome State Fault Refusal := endCommand (freqReadBody v s)

end Sys2Proof.Machine
end

