-- ==== Sys2Proof/Machine/HeaderCodec.lean ====
section
/-! DEFINITION. The header codec of 44_header_codec.md: MAGIC_WRITE, HDR_WRITE, MAGIC_READ, HDR_READ. -/

namespace Sys2Proof.Machine

/-- The body of MAGIC_WRITE (R200): OutWrite(32, MAGIC_VALUE). -/
def magicWriteBody (s : State) : Run Unit := writeField s.magic s

/-- `write` of R201: a flag bit per node, and the 9-bit symbol of each leaf. -/
def writeTree : Tree → State → Run Unit
  | .node l r, s =>
    (writeField (0 : BitVec 1) s).andThen fun _ t =>
      (writeTree l t).andThen fun _ u => writeTree r u
  | .leaf x, s => (writeField (1 : BitVec 1) s).andThen fun _ t => writeField (symbolField x) t

/-- The body of HDR_WRITE (R201). -/
def hdrWriteBody (s : State) : Run Unit := (requireTree s).andThen fun t u => writeTree t u

/-- The body of MAGIC_READ (R204): UNRECOGNIZED_FORMAT for another tag, or for fewer than 32 bits. -/
def magicReadBody (s : State) : Run Unit :=
  (readOrRaise 32 .unrecognizedFormat s).andThen fun v t =>
    if v = t.magic then .done () t else .raised .unrecognizedFormat t

/-- One more node read (R205 `n + 1`). -/
def countNode (s : State) : State := { s with hdrCount := s.hdrCount + 1 }

/-- A pending internal node on the reader's stack (R43), its left subtree still to be read. -/
def pushPending (s : State) : State := { s with hdrStack := none :: s.hdrStack }

/-- The innermost pending node's left subtree has been read (R43). -/
def setPendingLeft (l : Tree) (s : State) : State := { s with hdrStack := some l :: s.hdrStack.drop 1 }

/-- The innermost pending node is complete (R43). -/
def popPending (s : State) : State := { s with hdrStack := s.hdrStack.drop 1 }

/-- `read_node(n)` (R205), `n` held in `hdrCount` and the pending nodes in `hdrStack` (R43). `fuel` bounds the depth;
514 is enough, since each level has read a node and the 514th node is refused (R208). -/
def readNode : Nat → State → Run Tree
  | 0, s => .raised .malformedHeader s
  | fuel + 1, s =>
    if s.hdrCount = 513 then .raised .malformedHeader s
    else
      (readOrRaise 1 .malformedHeader s).andThen fun f t =>
        if f = 0 then
          (readNode fuel (pushPending (countNode t))).andThen fun l u =>
            (readNode fuel (setPendingLeft l u)).andThen fun r v => .done (.node l r) (popPending v)
        else
          (readOrRaise 9 .malformedHeader t).andThen fun v u =>
            match symbolOf v with
            | none => .raised .malformedHeader u
            | some x => .done (.leaf x) (countNode u)

/-- What HDR_READ clears when it starts (R205), with an empty stack and count (R43). -/
def startHeader (s : State) : State :=
  { s with tree := none, codesValid := false, dstate := .unarmed, dpath := [], hdrStack := [], hdrCount := 0 }

/-- R205's last check: a whole tree that is one leaf other than the sentinel is malformed. -/
def acceptTree (t : Tree) (s : State) : Run Unit :=
  match t with
  | .leaf x => if x = Config.eos then .done () (s.installTree t) else .raised .malformedHeader s
  | .node _ _ => .done () (s.installTree t)

/-- The body of HDR_READ (R205). -/
def hdrReadBody (s : State) : Run Unit :=
  (readNode (Config.nodeCap + 1) (startHeader s)).andThen fun t u => acceptTree t u

/-- MAGIC_WRITE (R200). -/
def execMagicWrite (s : State) : Host.Outcome State Fault Refusal := endCommand (magicWriteBody s)

/-- HDR_WRITE (R201). -/
def execHdrWrite (s : State) : Host.Outcome State Fault Refusal := endCommand (hdrWriteBody s)

/-- MAGIC_READ (R204). -/
def execMagicRead (s : State) : Host.Outcome State Fault Refusal := endCommand (magicReadBody s)

/-- HDR_READ (R205). -/
def execHdrRead (s : State) : Host.Outcome State Fault Refusal := endCommand (hdrReadBody s)

end Sys2Proof.Machine
end

