-- ==== Sys2Proof/Machine/TreeBuilder.lean ====
section
/-! DEFINITION. The tree builder of 42_tree_builder.md: the greedy merge in the functional form of R150, over nodes
that carry their weight and node index (R141 to R143, R148), and TREE_BUILD. The hardware's binary heap (R145,
R146) stands in Machine/HeapRealization.lean. -/

namespace Sys2Proof.Machine

/-- A node in the heap (R141, R142): its weight, its node index and the tree it is the root of. -/
structure HeapNode where
  weight : Nat
  index : Nat
  tree : Tree
  deriving DecidableEq, Repr

/-- The heap order (R148): keys `(weight, index)`, compared lexicographically. -/
def keyLess (a b : HeapNode) : Bool := a.weight < b.weight || (a.weight == b.weight && a.index < b.index)

/-- The 257 symbols in ascending order (R141). -/
def allSymbols : List Symbol := List.finRange 257

/-- The leaves of R141: one per symbol with a nonzero count, in ascending symbol order, with indices 0, 1, 2, ... -/
def leafNodes (freq : Vector Word 257) : List HeapNode :=
  (allSymbols.filter fun x => freq[x] ≠ 0).zipIdx.map fun p =>
    { weight := freq[p.1].toNat, index := p.2, tree := .leaf p.1 }

/-- `remove_min` over a set (R144, R147): the node with the least key, and the others. -/
def takeMin : List HeapNode → Option (HeapNode × List HeapNode)
  | [] => none
  | x :: xs =>
    match takeMin xs with
    | none => some (x, [])
    | some (m, rest) => if keyLess m x then some (m, x :: rest) else some (x, xs)

/-- The node a merge makes (R142, R149): the first node removed is the left child, the weight is the sum. -/
def mergeNodes (index : Nat) (a b : HeapNode) : HeapNode :=
  { weight := a.weight + b.weight, index := index, tree := .node a.tree b.tree }

/-- The loop of R150 "while |P| >= 2", the next node index given; `fuel` bounds the merges, which are fewer than the
nodes. -/
def mergeAll : Nat → Nat → List HeapNode → List HeapNode
  | 0, _, p => p
  | fuel + 1, next, p =>
    match takeMin p with
    | none => p
    | some (a, p₁) =>
      match takeMin p₁ with
      | none => p
      | some (b, p₂) => mergeAll fuel (next + 1) (p₂ ++ [mergeNodes next a b])

/-- The heap when R150's loop has ended: one node, unless no symbol has a count. -/
def finalHeap (freq : Vector Word 257) : List HeapNode :=
  mergeAll (leafNodes freq).length (leafNodes freq).length (leafNodes freq)

/-- `build(FREQ)` (R150): "tree_x for the only x in P". -/
def buildTree (freq : Vector Word 257) : Option Tree :=
  match finalHeap freq with
  | [x] => some x.tree
  | _ => none

/-- The body of TREE_BUILD (R150). HEAP is left with the root's index, the only one in P. -/
def treeBuildBody (s : State) : Run Unit :=
  match buildTree s.freq with
  | none => .stuck .heapEmpty
  | some t =>
    .done () (State.installTree t { s with
      codesValid := false
      heap := (finalHeap s.freq).map fun x => BitVec.ofNat 10 x.index })

/-- TREE_BUILD (R150). -/
def execTreeBuild (s : State) : Host.Outcome State Fault Refusal := endCommand (treeBuildBody s)

end Sys2Proof.Machine
end

