-- ==== Sys2Proof/Machine/Control.lean ====
section
/-! DEFINITION. The control, port and sequencing commands of 47_control.md: NOP, SRESET, CLRERR, IN_RESET, OUT_FLUSH,
COMPRESS, DECOMPRESS. -/

namespace Sys2Proof.Machine

/-- The body of IN_RESET (R253). -/
def inResetBody (s : State) : Run Unit := .done () (rewindInput s)

/-- The sub-operations of COMPRESS (R257). -/
def compressSteps : List (State → Run Unit) :=
  [freqInitBody, freqScanBody, treeBuildBody, codeDeriveBody, magicWriteBody, hdrWriteBody, inResetBody,
   encPassBody, flushOutput]

/-- The sub-operations of DECOMPRESS (R258). -/
def decompressSteps : List (State → Run Unit) := [magicReadBody, hdrReadBody, decPassBody, flushOutput]

/-- NOP (R250). -/
def execNop (s : State) : Host.Outcome State Fault Refusal := endCommand (.done () s)

/-- SRESET (R251). -/
def execSreset (s : State) : Host.Outcome State Fault Refusal := endCommand (.done () s.resetEngine)

/-- CLRERR (R252). -/
def execClrerr (s : State) : Host.Outcome State Fault Refusal := endCommand (.done () s.clearError)

/-- IN_RESET (R253). -/
def execInReset (s : State) : Host.Outcome State Fault Refusal := endCommand (inResetBody s)

/-- OUT_FLUSH (R254). -/
def execOutFlush (s : State) : Host.Outcome State Fault Refusal := endCommand (flushOutput s)

/-- COMPRESS (R257). -/
def execCompress (s : State) : Host.Outcome State Fault Refusal := endCommand (runSteps compressSteps s)

/-- DECOMPRESS (R258). -/
def execDecompress (s : State) : Host.Outcome State Fault Refusal := endCommand (runSteps decompressSteps s)

end Sys2Proof.Machine
end

