-- ==== Sys2Proof/Machine/Dispatch.lean ====
section
/-! DEFINITION. One arm per command (R92): each a direct call of its meaning. -/

namespace Sys2Proof.Machine

def exec (i : Instr) (s : State) : Host.Outcome State Fault Refusal :=
  match i with
  | .nop => Sys2Proof.Machine.execNop s
  | .sreset => Sys2Proof.Machine.execSreset s
  | .clrerr => Sys2Proof.Machine.execClrerr s
  | .freqInit => Sys2Proof.Machine.execFreqInit s
  | .freqAdd b => Sys2Proof.Machine.execFreqAdd b s
  | .freqScan => Sys2Proof.Machine.execFreqScan s
  | .freqRead x => Sys2Proof.Machine.execFreqRead x s
  | .treeBuild => Sys2Proof.Machine.execTreeBuild s
  | .codeDerive => Sys2Proof.Machine.execCodeDerive s
  | .codeRead x k => Sys2Proof.Machine.execCodeRead x k s
  | .magicWrite => Sys2Proof.Machine.execMagicWrite s
  | .hdrWrite => Sys2Proof.Machine.execHdrWrite s
  | .magicRead => Sys2Proof.Machine.execMagicRead s
  | .hdrRead => Sys2Proof.Machine.execHdrRead s
  | .encSym x => Sys2Proof.Machine.execEncSym x s
  | .encPass => Sys2Proof.Machine.execEncPass s
  | .decRestart => Sys2Proof.Machine.execDecRestart s
  | .decBit => Sys2Proof.Machine.execDecBit s
  | .decSym => Sys2Proof.Machine.execDecSym s
  | .decPass => Sys2Proof.Machine.execDecPass s
  | .inReset => Sys2Proof.Machine.execInReset s
  | .outFlush => Sys2Proof.Machine.execOutFlush s
  | .compress => Sys2Proof.Machine.execCompress s
  | .decompress => Sys2Proof.Machine.execDecompress s

end Sys2Proof.Machine
end

