-- ==== Sys2Proof/Machine/Window.lean ====
section
/-! DEFINITION. The register window (10_state.md R22 to R36, R49; 20_memory.md R71 to R73): host reads and writes, the
acceptance of a command word (R100), and the host's stream moves (R83). -/

namespace Sys2Proof.Machine

/-- Window offsets (R73). -/
def offsetId : BitVec 8 := 0x00
/-- CMD (R24). -/
def offsetCmd : BitVec 8 := 0x04
/-- STATUS (R25). -/
def offsetStatus : BitVec 8 := 0x08
/-- MAGIC (R32). -/
def offsetMagic : BitVec 8 := 0x0C
/-- RESULT (R33). -/
def offsetResult : BitVec 8 := 0x10
/-- CODE_BITS (R34). -/
def offsetCodeBits : BitVec 8 := 0x14
/-- TREE_INFO (R35). -/
def offsetTreeInfo : BitVec 8 := 0x18
/-- DEC_STATE (R36). -/
def offsetDecState : BitVec 8 := 0x1C

/-- The accesses the window supports (R71): 32 bits wide, at a multiple of 4. -/
def accessSupported (offset : BitVec 8) (width : Nat) : Bool := width == 32 && offset.toNat % 4 == 0

/-- The registers whose value is unspecified while BUSY = 1 (R49). -/
def hiddenWhileBusy (offset : BitVec 8) : Bool :=
  offset == offsetResult || offset == offsetCodeBits || offset == offsetTreeInfo || offset == offsetDecState

/-- The true value of the register at an offset: CMD and the reserved offsets read 0 (R24, R73). -/
def registerValue (offset : BitVec 8) (s : State) : Word :=
  if offset = offsetId then Config.idValue
  else if offset = offsetStatus then statusWord s
  else if offset = offsetMagic then s.magic
  else if offset = offsetResult then s.result
  else if offset = offsetCodeBits then s.codeBits
  else if offset = offsetTreeInfo then treeInfoWord s
  else if offset = offsetDecState then decStateWord s
  else 0

/-- What the host gets back (R83). -/
def addReply (r : HostReply) (s : State) : State := { s with hostReplies := s.hostReplies ++ [r] }

/-- A host read (R49, R71, R72): no side effect; while BUSY = 1 the hidden registers give a free value. -/
def hostRead (offset : BitVec 8) (width : Nat) (s : State) : Host.Outcome State Fault Refusal :=
  if accessSupported offset width then
    if s.busy && hiddenWhileBusy offset then
      .next (addReply (.value (Config.freeRead s.freeDraws)) { s with freeDraws := s.freeDraws + 1 })
    else .next (addReply (.value (registerValue offset s)) s)
  else .refused .unsupportedAccess

/-- The words that are not dropped while ERR = 1: SRESET and CLRERR (R100, R277). -/
def passesInError (w : Word) : Bool := w == 0x00000001 || w == 0x00000002

/-- Acceptance of a CMD write (R100). -/
def offerCommand (w : Word) (s : State) : State :=
  if s.busy then { s with cmdDropped := true }
  else if s.err && !passesInError w then { s with cmdDropped := true }
  else { s with pend := w, lastOp := w.extractLsb' 0 8, busy := true }

/-- A host write (R22, R71, R72): only CMD takes effect; a write to any other offset is ignored. -/
def hostWrite (offset : BitVec 8) (width : Nat) (w : Word) (s : State) : Host.Outcome State Fault Refusal :=
  if accessSupported offset width then
    if offset = offsetCmd then .next (offerCommand w s) else .next s
  else .refused .unsupportedAccess

/-- "load input" (R83): new IN_BITS per R66 and IN_POS <- 0, only while BUSY = 0. -/
def loadInput (bytes : List Byte) (s : State) : Host.Outcome State Fault Refusal :=
  if s.busy then .refused .streamChangeWhileBusy
  else .next { s with inBits := bytesToBits bytes, inPos := 0 }

/-- "drain output" (R83): takes OUT_BITS and sets it to "", only while BUSY = 0. -/
def drainOutput (s : State) : Host.Outcome State Fault Refusal :=
  if s.busy then .refused .streamChangeWhileBusy
  else .next (addReply (.bits s.outBits) { s with outBits := [] })

end Sys2Proof.Machine
end

