-- ==== Sys2Proof/Machine/Engine.lean ====
section
/-! DEFINITION. The engine's step (R101), the reset input (R290), which can abandon a running command, and the moves
of the host (R83). -/

namespace Sys2Proof.Machine

/-- The engine's step (R101): "execute PEND" while BUSY = 1, an illegal word raising ILLEGAL_COMMAND; idle while
BUSY = 0 (R288). -/
def engineStep (s : State) : Host.Outcome State Fault Refusal :=
  if s.busy then
    match decodeWord s.pend with
    | .command i => exec i s
    | .illegal _ => .next (s.abort .illegalCommand)
  else .next s

/-- The rule of each command as its list of sub-operations (R104): one but for COMPRESS and DECOMPRESS. -/
def commandSteps : Instr → List (State → Run Unit)
  | .nop => [fun s => .done () s]
  | .sreset => [fun s => .done () s.resetEngine]
  | .clrerr => [fun s => .done () s.clearError]
  | .freqInit => [freqInitBody]
  | .freqAdd b => [countByte b]
  | .freqScan => [freqScanBody]
  | .freqRead x => [freqReadBody x]
  | .treeBuild => [treeBuildBody]
  | .codeDerive => [codeDeriveBody]
  | .codeRead x k => [codeReadBody x k]
  | .magicWrite => [magicWriteBody]
  | .hdrWrite => [hdrWriteBody]
  | .magicRead => [magicReadBody]
  | .hdrRead => [hdrReadBody]
  | .encSym x => [encSymBody x]
  | .encPass => [encPassBody]
  | .decRestart => [decRestartBody]
  | .decBit => [decBitBody]
  | .decSym => [decSymBody]
  | .decPass => [decPassBody]
  | .inReset => [inResetBody]
  | .outFlush => [flushOutput]
  | .compress => compressSteps
  | .decompress => decompressSteps

/-- The same environment, but cutting the run at the port operation after the next `k` (R290): a failing operation has
no effect of its own (R61, R62, R65), so the ports then stand as they do when a reset comes after `k` of them. -/
def cutPorts (k : Nat) (s : State) : State :=
  { s with portDraws := (s.portDraws ++ List.replicate k false).take k ++ [true] }

/-- Where a run stopped, `s` if the model has no behaviour for it. -/
def stoppedAt (s : State) : Run Unit → State
  | .done _ t => t
  | .raised _ t => t
  | .stuck _ => s

/-- The draws a run of `cutPorts k s` leaves of those of `s`: it stopped in `t` and used up at most `k` of them. -/
def drawsAfterCut (k : Nat) (s t : State) : List Bool := s.portDraws.drop (k - (t.portDraws.length - 1))

/-- How far a command abandoned by reset has got (R290): `subOps` whole sub-operations and, where `portOps > 0`,
`portOps - 1` port operations of the next one, or all of it where it has no more. -/
def abandonedAt (steps : List (State → Run Unit)) (subOps portOps : Nat) (s : State) : State :=
  match runSteps (steps.take subOps) s with
  | .done _ t =>
    match portOps, steps[subOps]? with
    | k + 1, some f =>
      let u := stoppedAt (cutPorts k t) (f (cutPorts k t))
      { u with portDraws := drawsAfterCut k t u }
    | _, _ => t
  | .raised _ t => t
  | .stuck _ => s

/-- The reset input (R290, R274): the reset state; of a command it abandons, the bits written and consumed stay. -/
def resetInput (subOps portOps : Nat) (s : State) : State :=
  if s.busy then
    match decodeWord s.pend with
    | .command i => (abandonedAt (commandSteps i) subOps portOps s).resetEngine
    | .illegal _ => s.resetEngine
  else s.resetEngine

/-- One move of the host (R83), or the engine's turn. -/
def hostMove (m : HostMove) (s : State) : Host.Outcome State Fault Refusal :=
  match m with
  | .write offset width w => hostWrite offset width w s
  | .read offset width => hostRead offset width s
  | .loadInput bytes => loadInput bytes s
  | .drainOutput => drainOutput s
  | .assertReset subOps portOps => .next (resetInput subOps portOps s)
  | .wait => engineStep s

end Sys2Proof.Machine
end

