-- ==== Sys2Proof/Machine/Step.lean ====
section
/-! DEFINITION. One step of the machine: the host's next move, or the engine's step where the host has none (R75,
R101); and the host's probe of it. -/

namespace Sys2Proof.Machine

/-- One step: the head of `hostMoves` says which agent moves; with none left it is the engine's turn. -/
def step (s : State) : Host.Outcome State Fault Refusal :=
  match s.hostMoves with
  | [] => engineStep s
  | m :: rest => hostMove m { s with hostMoves := rest }

/-- `s` with the word `w` accepted as a command (R100: PEND, LAST_OP, BUSY), and the engine's turn next. HUFF-CORE
fetches nothing (R21); this stands for the accepted CMD write. -/
def State.withFetchWord (s : State) (nbits w : Nat) : State :=
  { s with
    pend := BitVec.ofNat 32 (w % 2 ^ nbits)
    lastOp := (BitVec.ofNat 32 (w % 2 ^ nbits)).extractLsb' 0 8
    busy := true
    hostMoves := match s.hostMoves with
      | [] => []
      | ms => .wait :: ms }

end Sys2Proof.Machine
end

