-- ==== Sys2Proof/Machine/HeapRealization.lean ====
section
/-! DEFINITION. The tree builder as the hardware realizes it (R145, R146): a binary heap in HEAP[0..HSIZE-1]. R147 says
its arrangement does not show, so TREE_BUILD's meaning uses the functional form; an obligation says that both
build the same tree. -/

namespace Sys2Proof.Machine

/-- Swaps two entries of the heap (R145, R146). -/
def swapEntries (h : List HeapNode) (i j : Nat) : List HeapNode :=
  match h[i]?, h[j]? with
  | some a, some b => (h.set i b).set j a
  | _, _ => h

/-- `key(HEAP[i]) < key(HEAP[j])`; false where there is no such entry. -/
def entryLess (h : List HeapNode) (i j : Nat) : Bool :=
  match h[i]?, h[j]? with
  | some a, some b => keyLess a b
  | _, _ => false

/-- The loop of R145 from slot `j`; `fuel` bounds it, `j` itself being enough. -/
def siftUp : Nat → Nat → List HeapNode → List HeapNode
  | 0, _, h => h
  | fuel + 1, j, h =>
    if 0 < j ∧ entryLess h j ((j - 1) / 2) then siftUp fuel ((j - 1) / 2) (swapEntries h j ((j - 1) / 2)) else h

/-- `insert(x)` (R145). -/
def heapInsert (h : List HeapNode) (x : HeapNode) : List HeapNode := siftUp h.length h.length (h ++ [x])

/-- The slot `m` of R146's loop: the least of slot `j` and its two children. -/
def leastChild (h : List HeapNode) (j : Nat) : Nat :=
  let m₁ := if entryLess h (2 * j + 1) j then 2 * j + 1 else j
  if entryLess h (2 * j + 2) m₁ then 2 * j + 2 else m₁

/-- The loop of R146 from slot `j`; `fuel` bounds it, the heap's size being enough. -/
def siftDown : Nat → Nat → List HeapNode → List HeapNode
  | 0, _, h => h
  | fuel + 1, j, h =>
    if leastChild h j = j then h else siftDown fuel (leastChild h j) (swapEntries h j (leastChild h j))

/-- `remove_min()` (R146): the entry in slot 0, and the heap without it. -/
def heapRemoveMin (h : List HeapNode) : Option (HeapNode × List HeapNode) :=
  match h.head?, h.getLast? with
  | some top, some last => some (top, siftDown h.length 0 ((h.set 0 last).dropLast))
  | _, _ => none

/-- The merges of R150 with the operations of R145 and R146. -/
def heapMergeAll : Nat → Nat → List HeapNode → List HeapNode
  | 0, _, h => h
  | fuel + 1, next, h =>
    if h.length < 2 then h
    else
      match heapRemoveMin h with
      | none => h
      | some (a, h₁) =>
        match heapRemoveMin h₁ with
        | none => h
        | some (b, h₂) => heapMergeAll fuel (next + 1) (heapInsert h₂ (mergeNodes next a b))

/-- The heap after the leaves have been inserted in index order (R141, R145). -/
def heapOfLeaves (freq : Vector Word 257) : List HeapNode := (leafNodes freq).foldl heapInsert []

/-- The tree the hardware's heap builds. -/
def heapBuildTree (freq : Vector Word 257) : Option Tree :=
  match heapMergeAll (leafNodes freq).length (leafNodes freq).length (heapOfLeaves freq) with
  | [x] => some x.tree
  | _ => none

end Sys2Proof.Machine
end

