-- ==== Sys2Proof/Machine/Program.lean ====
section
/-! DEFINITION. Programs in the assembler's sense (R95): commands and the host steps WAIT, LOAD_IN and DRAIN_OUT, as
the host's moves. -/

namespace Sys2Proof.Machine

/-- One line of a program (R95). -/
inductive AsmLine where
  | command (mnemonic : String) (operands : List Nat)
  /-- `.word w`: "a host write of a raw word to CMD" (95_test_vectors.md, P4). -/
  | rawWord (w : Word)
  | wait
  | loadIn (bytes : List Byte)
  | drainOut
  deriving DecidableEq, Repr

/-- The host's move for one line (R95): a command's word "written by the host to CMD". -/
def assembleMove : AsmLine → Option HostMove
  | .command mnemonic operands => (assembleLine mnemonic operands).map fun i => .write offsetCmd 32 (encode i)
  | .rawWord w => some (.write offsetCmd 32 w)
  | .wait => some .wait
  | .loadIn bytes => some (.loadInput bytes)
  | .drainOut => some .drainOutput

/-- The host's moves for a program (R95); `none` where a line does not assemble. -/
def assembleProgram : List AsmLine → Option (List HostMove)
  | [] => some []
  | l :: ls =>
    match assembleMove l, assembleProgram ls with
    | some m, some ms => some (m :: ms)
    | _, _ => none

end Sys2Proof.Machine
end

