-- ==== Sys2Proof/Safety.lean ====
section
/-! DEFINITION. The terms claims use: the named premise "no port I/O failure" (R82), the invariants the spec states of
every reachable state, the tables of which command writes what (R48, R86) and raises what (R271), the bounds of
R105, and the functions that R135, R182 and R260 name. -/

namespace Sys2Proof.Machine

/-- The named premise of R82: the environment draws no I/O failure at any coming port operation. -/
abbrev NoPortFailure (s : State) : Prop := ∀ b ∈ s.portDraws, b = false

/-- R39's condition on the root: "if TREE is a single leaf, that leaf is `Leaf(256)`". -/
def rootLegal : Tree → Bool
  | .leaf x => x == Config.eos
  | .node _ _ => true

/-- What R39 says of every tree TREE holds; that it is full and that its symbols are in 0..256 its type says. -/
def legalTree (t : Tree) : Bool := decide (treeSize t ≤ Config.nodeCap) && rootLegal t

/-- A tree whose leaf symbols are distinct, as every tree TREE_BUILD makes is (R151, R182). -/
abbrev DistinctLeaves (t : Tree) : Prop := (treeLeaves t).Nodup

/-- The invariants the spec states of every reachable state. -/
structure Inv (s : State) : Prop where
  /-- R38: `FREQ[256] = 1`. -/
  sentinelCount : s.count Config.eos = 1
  /-- R39. -/
  treeLegal : ∀ t, s.tree = some t → legalTree t = true
  /-- R44: "DSTATE = UNARMED exactly when TREE_VALID = 0". -/
  unarmedIffNoTree : s.dstate = .unarmed ↔ s.treeValid = false
  /-- R44: "DPATH = "" unless DSTATE = MID_PATH". -/
  pathEmpty : s.dstate ≠ .midPath → s.dpath = []
  /-- R44: "when DSTATE = MID_PATH the node at DPATH is an internal node of TREE". -/
  pathInternal : s.dstate = .midPath → ∃ t l r, s.tree = some t ∧ subtree t s.dpath = some (.node l r)
  /-- R30: CODES_VALID = 1 only for the table derived from the tree TREE now holds. -/
  codesCurrent : s.codesValid = true → ∃ t, s.tree = some t ∧ s.code = codesOf t
  /-- R46: IN_POS is in 0..len(IN_BITS). -/
  cursorInside : s.inPos ≤ s.inBits.length
  /-- R25, R27: ERRCODE is 0 exactly when ERR = 0. -/
  errCodeZero : s.errCode = 0 ↔ s.err = false
  /-- R25: ERRCODE is in 0..10. -/
  errCodeLegal : s.errCode.toNat ≤ 10
  /-- R277: while ERR = 1 the only command that can be pending is SRESET or CLRERR. -/
  errorPending : s.busy = true → s.err = true → passesInError s.pend = true
  /-- R41: at most `HEAP_CAP` entries. -/
  heapFits : s.heap.length ≤ Config.heapCap
  /-- R43, R208: no more pending nodes than nodes read, and those within `NODE_CAP`. -/
  stackFits : s.hdrStack.length ≤ s.hdrCount.toNat ∧ s.hdrCount.toNat ≤ Config.nodeCap

/-! ### Which command does what -/

/-- The 24 assigned OPCODE values (R92). -/
def assignedOpcodes : List (BitVec 8) :=
  [0x00, 0x01, 0x02, 0x10, 0x11, 0x12, 0x13, 0x20, 0x30, 0x31, 0x40, 0x41, 0x42, 0x43, 0x50, 0x51,
   0x60, 0x61, 0x62, 0x63, 0x70, 0x71, 0x80, 0x81]

/-- The errors each command can end with, the matrix of R271. -/
def mayRaise : Instr → List ErrorKind
  | .nop | .sreset | .clrerr | .freqInit | .freqRead _ | .treeBuild | .inReset => []
  | .freqAdd _ => [.countOverflow]
  | .freqScan => [.ioError, .countOverflow]
  | .codeDerive => [.noTree]
  | .codeRead _ _ => [.noCodes]
  | .magicWrite => [.ioError]
  | .hdrWrite => [.noTree, .ioError]
  | .magicRead => [.unrecognizedFormat, .ioError]
  | .hdrRead => [.malformedHeader, .ioError]
  | .encSym _ => [.noCodes, .noCode, .ioError]
  | .encPass => [.noCodes, .noCode, .ioError]
  | .decRestart => [.noTree]
  | .decBit | .decSym | .decPass => [.noTree, .decoderDone, .missingTerminator, .ioError]
  | .outFlush => [.ioError]
  | .compress => [.countOverflow, .noCode, .ioError]
  | .decompress => [.unrecognizedFormat, .malformedHeader, .missingTerminator, .ioError]

/-- The writers of FREQ (R37, R86). -/
def writesFreq (i : Instr) : Bool :=
  match i with
  | .freqInit | .freqAdd _ | .freqScan | .compress | .sreset => true
  | _ => false

/-- The writers of TREE (R29, R86). -/
def writesTree (i : Instr) : Bool :=
  match i with
  | .treeBuild | .hdrRead | .compress | .decompress | .sreset => true
  | _ => false

/-- The writers of CODE (R42, R86). -/
def writesCode (i : Instr) : Bool :=
  match i with
  | .codeDerive | .compress | .sreset => true
  | _ => false

/-- The writers of CODES_VALID (R30, R48). -/
def writesCodesValid (i : Instr) : Bool :=
  match i with
  | .codeDerive | .treeBuild | .hdrRead | .compress | .decompress | .sreset => true
  | _ => false

/-- The writers of DSTATE and DPATH (R48). -/
def writesDecoder (i : Instr) : Bool :=
  match i with
  | .treeBuild | .hdrRead | .decRestart | .decBit | .decSym | .decPass | .compress | .decompress | .sreset => true
  | _ => false

/-- The writers of RESULT (R33). -/
def writesResult (i : Instr) : Bool :=
  match i with
  | .freqRead _ | .codeRead _ _ | .decBit | .decSym | .decPass | .decompress | .sreset => true
  | _ => false

/-- The writers of CODE_BITS (R34). -/
def writesCodeBits (i : Instr) : Bool :=
  match i with
  | .codeRead _ _ | .sreset => true
  | _ => false

/-- The commands that move IN_POS (R46). -/
def movesInput (i : Instr) : Bool :=
  match i with
  | .freqScan | .magicRead | .hdrRead | .encPass | .decBit | .decSym | .decPass | .inReset | .compress
  | .decompress => true
  | _ => false

/-- The commands that write the output stream (R46). -/
def writesOutput (i : Instr) : Bool :=
  match i with
  | .magicWrite | .hdrWrite | .encSym _ | .encPass | .decBit | .decSym | .decPass | .outFlush | .compress
  | .decompress => true
  | _ => false

/-- The bound of R105 on one command's port operations, `n` the input bits remaining and `len` the whole input. An
`OutWriteBits` counts one operation per bit (R63), so ENC_SYM has up to 256; DEC_PASS counts, beside its `n` reads and
`n` writes, the read that answers EOD (log 17). -/
def workBound (i : Instr) (n len : Nat) : Nat :=
  match i with
  | .freqScan => n / 8 + 1
  | .encPass => (n / 8 + 1) + 256 * (n / 8 + 1)
  | .hdrRead => 513 + 257
  | .hdrWrite => 2826
  | .decBit => 2
  | .decSym => 256 + 1
  | .decPass => n + n + 1
  | .encSym _ => 256
  | .compress => (n / 8 + 1) + 1 + 2826 + ((len / 8 + 1) + 256 * (len / 8 + 1)) + 1
  | .decompress => 1 + (513 + 257) + (n + n + 1) + 1
  | .magicWrite | .magicRead | .outFlush => 1
  | .nop | .sreset | .clrerr | .freqInit | .freqAdd _ | .freqRead _ | .treeBuild | .codeDerive | .codeRead _ _
  | .decRestart | .inReset => 0

/-! ### Functions the rules name -/

/-- The whole bytes from IN_POS to the end of the input: what FREQ_SCAN and ENC_PASS read (R132, R217). -/
def bytesAhead (s : State) : List Byte := bitsToBytes (bitsLeft s / 8) (s.inBits.drop s.inPos)

/-- `F_S` (R135, R260): the occurrences of each byte in `S`, and 1 for the sentinel. -/
def frequencyOf (S : List Byte) : Vector Word 257 :=
  Vector.ofFn fun x => if x.val = 256 then 1 else BitVec.ofNat 32 (S.countP fun b => b.toNat == x.val)

/-- The path of the last leaf of symbol `x` in preorder (R182): the right subtree's, else the left's. -/
def lastPath (x : Symbol) : Tree → Option Bits
  | .leaf y => if y = x then some [] else none
  | .node l r =>
    match lastPath x r, lastPath x l with
    | some p, _ => some (true :: p)
    | none, some p => some (false :: p)
    | none, none => none

/-- The sum over the leaves of a tree at depth `d` of count times depth (R152). -/
def treeCost (freq : Vector Word 257) : Nat → Tree → Nat
  | d, .leaf x => freq[x].toNat * d
  | d, .node l r => treeCost freq (d + 1) l + treeCost freq (d + 1) r

/-- The fields of a tree's header in order, one for each port operation that writes or reads it (R201, R205): a flag
bit per node, and the 9-bit symbol after a leaf's flag. -/
def headerFields : Tree → List Bits
  | .node l r => [false] :: (headerFields l ++ headerFields r)
  | .leaf x => [[true], bitsOf (symbolField x)]

/-- How many of some header fields are flags, and so how many nodes they begin. -/
def flagCount (fields : List Bits) : Nat := fields.countP fun f => f.length == 1

/-- The codes of some bytes one after another, without the sentinel's (R217). -/
def codesOfBytes (table : Vector (Option Bits) 257) : List Byte → Option Bits
  | [] => some []
  | b :: bs =>
    match table[byteSymbol b], codesOfBytes table bs with
    | some x, some rest => some (x ++ rest)
    | _, _ => none

/-- The compressed file of R96 and R260 for a tree and a body, padded. -/
def compressedFile (magic : Word) (t : Tree) (body : Bits) : Bits := padToByte (bitsOf magic ++ serialize t ++ body)

/-- Commands issued one after another as long as none has ended in an error. -/
def runCommands : List Instr → State → Host.Outcome State Fault Refusal
  | [], s => .next s
  | i :: is, s =>
    match exec i s with
    | .next t => if t.err then .next t else runCommands is t
    | .fault f => .fault f
    | .refused r => .refused r

/-- `DEC_PASS` is over after a state: it has ended in an error or at the sentinel (R233). -/
def passOver (s : State) : Bool := s.err || s.dstate == .done

end Sys2Proof.Machine
end

