-- ==== Sys2Proof/Certificates/Slice0/Obligations.lean ====
section
/-! DEFINITION. The statements about HUFF-CORE, each from numbered rules of spec/ named in its docstring. A statement
about every state holds in states no run reaches too, or takes the invariant `Inv` as a premise. -/

open Sys2Proof Sys2Proof.Machine

/-! ### Encoding -/

/-- V1 and R95: words written out from the tables of 30_encoding.md decode as the rules say. -/
def Obligations.SpecWordsDecode : Prop :=
  decodeWord 0x00000000 = .command .nop ∧ decodeWord 0x00000001 = .command .sreset ∧
  decodeWord 0x00000111 = .command (.freqAdd 1) ∧ decodeWord 0x0000FF11 = .command (.freqAdd 255) ∧
  decodeWord 0x00010011 = .illegal .byteOperandTooWide ∧ decodeWord 0x00004113 = .command (.freqRead 65) ∧
  decodeWord 0x00010013 = .command freqReadEos ∧ decodeWord 0x00010113 = .illegal .symbolOutOfRange ∧
  decodeWord 0x01010013 = .illegal .reservedBits ∧ decodeWord 0x00020013 = .illegal .strayOperand ∧
  decodeWord 0x00000020 = .command .treeBuild ∧ decodeWord 0x00004131 = .command (codeLen 65) ∧
  decodeWord 0x00020031 = .command (.codeRead 0 1) ∧ decodeWord 0x000E0031 = .command (.codeRead 0 7) ∧
  decodeWord 0x00050031 = .command (.codeRead 256 2) ∧ decodeWord 0x00010131 = .illegal .symbolOutOfRange ∧
  decodeWord 0x00000043 = .command .hdrRead ∧ decodeWord 0x00010050 = .command encEos ∧
  decodeWord 0x00020050 = .illegal .strayOperand ∧ decodeWord 0x00000120 = .illegal .strayOperand ∧
  decodeWord 0x00000063 = .command .decPass ∧ decodeWord 0x00100000 = .illegal .reservedBits ∧
  decodeWord 0x00000003 = .illegal .unassignedOpcode ∧ decodeWord 0x00000081 = .command .decompress

/-- R93, R95: every well-formed command, at every value of its operands, decodes from its own word, and that word is
`op | (operand << 8) | (k << 17)`. -/
def Obligations.DecodeInvertsEncode : Prop :=
  ∀ i : Instr,
    (i.wellFormed = true → decodeWord (encode i) = .command i) ∧
    encode i = (opcodeOf i).setWidth 32 ||| ((symOperand i).setWidth 32 <<< 8) ||| ((wordOperand i).setWidth 32 <<< 17)

/-- R93: a word that decodes to a command is that command's only encoding, and the command is well-formed. -/
def Obligations.EncodeInvertsDecode : Prop :=
  ∀ (w : Word) (i : Instr), decodeWord w = .command i → i.wellFormed = true ∧ encode i = w

/-- R94: the illegal words are exactly those the rule lists; an accepted one still sets LAST_OP, ends at once with
ILLEGAL_COMMAND and changes nothing else. -/
def Obligations.IllegalWordsAreExactlyThese : Prop :=
  (∀ w : Word, (∃ why, decodeWord w = .illegal why) ↔
    rsvField w ≠ 0 ∨ opcodeField w ∉ assignedOpcodes ∨
    (opcodeField w = 0x11 ∧ ((symField w).getLsbD 8 = true ∨ wordField w ≠ 0)) ∨
    ((opcodeField w = 0x13 ∨ opcodeField w = 0x50) ∧ (256 < (symField w).toNat ∨ wordField w ≠ 0)) ∨
    (opcodeField w = 0x31 ∧ 256 < (symField w).toNat) ∨
    (opcodeField w ∉ [0x11, 0x13, 0x31, 0x50] ∧ (symField w ≠ 0 ∨ wordField w ≠ 0))) ∧
  assignedOpcodes.Nodup ∧ 256 - assignedOpcodes.length = 232 ∧
  (∀ (s : State) (w : Word) why, s.busy = false → s.err = false → decodeWord w = .illegal why →
    (offerCommand w s).lastOp = w.extractLsb' 0 8 ∧
    engineStep (offerCommand w s) = .next { offerCommand w s with err := true, errCode := 5, busy := false })

/-! ### The engine, the window and the reset -/

/-- R101, R288: a step runs the command PEND decodes to, an illegal word raises ILLEGAL_COMMAND, an idle engine does
nothing; the host's `wait` leaves the step to the engine. -/
def Obligations.StepRunsTheDecodedCommand : Prop :=
  ∀ s : State,
    (s.hostMoves = [] → step s = engineStep s) ∧
    (∀ rest, s.hostMoves = .wait :: rest → step s = engineStep { s with hostMoves := rest }) ∧
    (∀ i, s.busy = true → decodeWord s.pend = .command i → engineStep s = exec i s) ∧
    (∀ why, s.busy = true → decodeWord s.pend = .illegal why → engineStep s = .next (s.abort .illegalCommand)) ∧
    (s.busy = false → engineStep s = .next s)

/-- R100: the acceptance of a CMD write, its three cases. -/
def Obligations.CommandWriteAcceptance : Prop :=
  ∀ (s : State) (w : Word) (rest : List HostMove), s.hostMoves = .write 0x04 32 w :: rest →
    (s.busy = true → step s = .next { s with hostMoves := rest, cmdDropped := true }) ∧
    (s.busy = false → s.err = true → w ≠ 0x00000001 → w ≠ 0x00000002 →
      step s = .next { s with hostMoves := rest, cmdDropped := true }) ∧
    (s.busy = false → (s.err = false ∨ w = 0x00000001 ∨ w = 0x00000002) →
      step s = .next { s with hostMoves := rest, pend := w, lastOp := w.extractLsb' 0 8, busy := true })

/-- R49: while BUSY = 1, ID, MAGIC and STATUS read their true values, the four other registers a free value (the
statement holds for every value of it), a CMD write is dropped and every other write is ignored. -/
def Obligations.AccessesWhileBusy : Prop :=
  ∀ (s : State) (rest : List HostMove), s.busy = true →
    (s.hostMoves = .read 0x00 32 :: rest →
      step s = .next { s with hostMoves := rest, hostReplies := s.hostReplies ++ [.value 0x48554631] }) ∧
    (s.hostMoves = .read 0x0C 32 :: rest →
      step s = .next { s with hostMoves := rest, hostReplies := s.hostReplies ++ [.value s.magic] }) ∧
    (s.hostMoves = .read 0x08 32 :: rest →
      step s = .next { s with hostMoves := rest, hostReplies := s.hostReplies ++ [.value (statusWord s)] }) ∧
    (∀ offset, offset ∈ [0x10, 0x14, 0x18, 0x1C] → s.hostMoves = .read offset 32 :: rest →
      step s = .next { s with
        hostMoves := rest
        freeDraws := s.freeDraws + 1
        hostReplies := s.hostReplies ++ [.value (Config.freeRead s.freeDraws)] }) ∧
    (∀ w, s.hostMoves = .write 0x04 32 w :: rest →
      step s = .next { s with hostMoves := rest, cmdDropped := true }) ∧
    (∀ offset w, offset.toNat % 4 = 0 → offset ≠ 0x04 → s.hostMoves = .write offset 32 w :: rest →
      step s = .next { s with hostMoves := rest })

/-- R22, R24, R72, R73: while BUSY = 0 a supported read answers the register of the map, 0 at CMD and at the reserved
offsets, and changes nothing; a write away from CMD is ignored; a read of CMD or of a reserved offset answers 0 whatever
BUSY is. -/
def Obligations.IdleWindowAccesses : Prop :=
  ∀ (s : State) (rest : List HostMove) (offset : BitVec 8), offset.toNat % 4 = 0 →
    (s.busy = false →
      (s.hostMoves = .read offset 32 :: rest →
        ∃ v : Word,
          step s = .next { s with hostMoves := rest, hostReplies := s.hostReplies ++ [.value v] } ∧
          (offset = 0x00 → v = 0x48554631) ∧ (offset = 0x04 → v = 0) ∧ (offset = 0x08 → v = statusWord s) ∧
          (offset = 0x0C → v = s.magic) ∧ (offset = 0x10 → v = s.result) ∧ (offset = 0x14 → v = s.codeBits) ∧
          (offset = 0x18 → v = treeInfoWord s) ∧ (offset = 0x1C → v = decStateWord s) ∧
          (0x20 ≤ offset.toNat → v = 0)) ∧
      (∀ w, offset ≠ 0x04 → s.hostMoves = .write offset 32 w :: rest → step s = .next { s with hostMoves := rest })) ∧
    (offset = 0x04 ∨ 0x20 ≤ offset.toNat → s.hostMoves = .read offset 32 :: rest →
      step s = .next { s with hostMoves := rest, hostReplies := s.hostReplies ++ [.value 0] })

/-- R71: an access of another width or off a multiple of 4 is refused, and no other access is. -/
def Obligations.UnsupportedAccessesRefused : Prop :=
  ∀ (s : State) (rest : List HostMove) (offset : BitVec 8) (width : Nat) (w : Word),
    (width ≠ 32 ∨ offset.toNat % 4 ≠ 0 →
      (s.hostMoves = .read offset width :: rest → step s = .refused .unsupportedAccess) ∧
      (s.hostMoves = .write offset width w :: rest → step s = .refused .unsupportedAccess)) ∧
    (width = 32 → offset.toNat % 4 = 0 →
      (s.hostMoves = .read offset width :: rest → ∃ t, step s = .next t) ∧
      (s.hostMoves = .write offset width w :: rest → ∃ t, step s = .next t))

/-- R25, R29: each field of STATUS stands at its bits, and the reserved bits are 0. -/
def Obligations.StatusWordFields : Prop :=
  ∀ s : State,
    (statusWord s).getLsbD 0 = s.busy ∧ (statusWord s).getLsbD 1 = s.err ∧
    (statusWord s).getLsbD 2 = s.cmdDropped ∧ (statusWord s).getLsbD 3 = s.tree.isSome ∧
    (statusWord s).getLsbD 4 = s.codesValid ∧ (statusWord s).extractLsb' 5 3 = 0 ∧
    (statusWord s).extractLsb' 8 4 = s.errCode ∧ (statusWord s).extractLsb' 12 4 = 0 ∧
    (statusWord s).extractLsb' 16 8 = s.lastOp ∧ (statusWord s).extractLsb' 24 8 = 0

/-- R35, R36: the fields of TREE_INFO and DEC_STATE, for every legal tree and every path of at most 256 bits; what
their offsets read, and that a write there changes nothing. -/
def Obligations.ViewRegisterFields : Prop :=
  ∀ s : State,
    registerValue 0x18 s = treeInfoWord s ∧ registerValue 0x1C s = decStateWord s ∧
    (∀ w, hostWrite 0x18 32 w s = .next s ∧ hostWrite 0x1C 32 w s = .next s) ∧
    (s.tree = none → treeInfoWord s = 0) ∧
    (∀ t, s.tree = some t → legalTree t = true →
      ((treeInfoWord s).extractLsb' 0 10).toNat = treeSize t ∧ 1 ≤ treeSize t ∧ treeSize t ≤ 513 ∧
      ((treeInfoWord s).extractLsb' 16 9).toNat = (treeLeaves t).length ∧
      1 ≤ (treeLeaves t).length ∧ (treeLeaves t).length ≤ 257 ∧
      (treeInfoWord s).extractLsb' 10 6 = 0 ∧ (treeInfoWord s).extractLsb' 25 7 = 0) ∧
    (s.dpath.length ≤ 256 →
      ((decStateWord s).extractLsb' 16 9).toNat = s.dpath.length ∧
      (decStateWord s).extractLsb' 0 2 =
        (match s.dstate with
          | .unarmed => 0
          | .atRoot => 1
          | .midPath => 2
          | .done => 3) ∧
      (decStateWord s).extractLsb' 2 14 = 0 ∧ (decStateWord s).extractLsb' 25 7 = 0)

/-- R47: the reset values, after SRESET from any state, after the reset input to an idle engine, and in `State.reset`;
the port state and MAGIC are not changed. What R47 calls unspecified (HEAP, CODE, the header reader's stack, PEND) is
not stated. The reset input to a running command is `ResetAbandonsTheCommand`. -/
def Obligations.ResetValues : Prop :=
  ∀ s t : State,
    (exec .sreset s = .next t ∨
      (s.busy = false ∧ step s = .next t ∧ ∃ subOps portOps rest, s.hostMoves = .assertReset subOps portOps :: rest) ∨
      (s = State.reset ∧ t = State.reset)) →
    t.busy = false ∧ t.err = false ∧ t.cmdDropped = false ∧ t.treeValid = false ∧ t.codesValid = false ∧
    t.errCode = 0 ∧ t.lastOp = 0 ∧ t.result = 0 ∧ t.codeBits = 0 ∧
    (∀ x : Symbol, x ≠ Config.eos → t.count x = 0) ∧ t.count Config.eos = 1 ∧
    t.tree = none ∧ t.dstate = .unarmed ∧ t.dpath = [] ∧ t.magic = s.magic ∧
    registerValue 0x00 t = 0x48554631 ∧ registerValue 0x0C t = s.magic ∧ registerValue 0x08 t = 0 ∧
    registerValue 0x18 t = 0 ∧ registerValue 0x1C t = 0 ∧
    t.inBits = s.inBits ∧ t.inPos = s.inPos ∧ t.outBits = s.outBits

/-- R251, R291: SRESET gives the state the reset input gives an idle engine, is accepted in the error state, and leaves
STATUS and DEC_STATE at 0 and FREQ[256] at 1. -/
def Obligations.SresetIsTheReset : Prop :=
  decodeWord 0x00000001 = .command .sreset ∧
  ∀ s : State,
    exec .sreset s = .next s.resetEngine ∧
    (∀ subOps portOps rest, s.busy = false → s.hostMoves = .assertReset subOps portOps :: rest →
      step s = exec .sreset { s with hostMoves := rest }) ∧
    (s.busy = false → offerCommand 0x00000001 s = { s with pend := 1, lastOp := 1, busy := true }) ∧
    (s.busy = true → offerCommand 0x00000001 s = { s with cmdDropped := true }) ∧
    statusWord s.resetEngine = 0 ∧ s.resetEngine.count Config.eos = 1 ∧ decStateWord s.resetEngine = 0

/-- R290, R84: the reset input at any time gives the reset state, with no error recorded; what the command it abandons
wrote stays written and what it consumed stays consumed. An idle engine, an illegal word and a command at its start leave
the ports alone. `subOps` whole sub-operations leave them as those do, and `k` port operations of the next one as it does
where it runs up to its `k`-th port operation and no further. What is written lies between the output of the whole
sub-operations and that of the whole command. ENC_SYM and FREQ_SCAN say it in their own terms. That the host's move says
how far the command has got is the model's choice, log 13. -/
def Obligations.ResetAbandonsTheCommand : Prop :=
  ∀ (s : State) (subOps portOps : Nat) (rest : List HostMove), s.hostMoves = .assertReset subOps portOps :: rest →
    ∃ t, step s = .next t ∧
      t = { State.resetEngine { s with hostMoves := rest } with
        inPos := t.inPos, outBits := t.outBits, portDraws := t.portDraws } ∧
      (∃ c, t.outBits = s.outBits ++ c) ∧
      (s.busy = false ∨ (∃ why, decodeWord s.pend = .illegal why) ∨ (subOps = 0 ∧ portOps = 0) →
        t.inPos = s.inPos ∧ t.outBits = s.outBits ∧ t.portDraws = s.portDraws) ∧
      (∀ i, s.busy = true → decodeWord s.pend = .command i →
        (∀ u, runSteps ((commandSteps i).take subOps) { s with hostMoves := rest } = .done () u →
          u.outBits <+: t.outBits ∧ (i ≠ .inReset → ¬ (i = .compress ∧ subOps = 6) → u.inPos ≤ t.inPos) ∧
          (portOps = 0 → t.inPos = u.inPos ∧ t.outBits = u.outBits ∧ t.portDraws = u.portDraws) ∧
          (∀ f k v, (commandSteps i)[subOps]? = some f → portOps = k + 1 →
            (f (cutPorts k u) = .done () v ∨ ∃ e, f (cutPorts k u) = .raised e v) →
            t.inPos = v.inPos ∧ t.outBits = v.outBits)) ∧
        (∀ e u, runSteps ((commandSteps i).take subOps) { s with hostMoves := rest } = .raised e u →
          t.inPos = u.inPos ∧ t.outBits = u.outBits ∧ t.portDraws = u.portDraws) ∧
        (∀ w, exec i { s with hostMoves := rest } = .next w →
          t.outBits <+: w.outBits ∧
          ((commandSteps i).length ≤ subOps → t.inPos = w.inPos ∧ t.outBits = w.outBits ∧ t.portDraws = w.portDraws)) ∧
        (∀ x c k, i = .encSym (symbolField x) → s.codesValid = true → s.codeFor x = some c → NoPortFailure s →
          subOps = 0 → portOps = k + 1 →
          t.inPos = s.inPos ∧ t.outBits = s.outBits ++ c.take k ∧ t.portDraws = s.portDraws.drop (min k c.length)) ∧
        (∀ k, i = .freqScan → NoPortFailure s →
          (∀ b : Byte, (s.count (byteSymbol b)).toNat + (bytesAhead s).count b < 2 ^ 32) →
          subOps = 0 → portOps = k + 1 →
          t.inPos = s.inPos + 8 * min k (bitsLeft s / 8) ∧ t.outBits = s.outBits))

/-- R250, R252, R253: NOP, CLRERR and IN_RESET, each with its whole next state; NOP is dropped in the error state and
CLRERR is not. -/
def Obligations.ControlCommandResults : Prop :=
  decodeWord 0x00000000 = .command .nop ∧ decodeWord 0x00000002 = .command .clrerr ∧
  decodeWord 0x00000070 = .command .inReset ∧
  ∀ s : State,
    exec .nop s = .next { s with busy := false } ∧
    exec .clrerr s = .next { s with err := false, errCode := 0, cmdDropped := false, busy := false } ∧
    exec .inReset s = .next { s with inPos := 0, busy := false } ∧
    (s.busy = false → s.err = true → offerCommand 0x00000000 s = { s with cmdDropped := true }) ∧
    (s.busy = false → s.err = true → offerCommand 0x00000002 s = { s with pend := 2, lastOp := 2, busy := true }) ∧
    (statusWord s = 0x00430202 →
      ∃ t, exec .clrerr { s with lastOp := 2 } = .next t ∧ statusWord t = 0x00020000)

/-! ### The ports -/

/-- R65, R254: OUT_FLUSH appends 0 to 7 zero bits to a byte boundary, or IO_ERROR with nothing appended. -/
def Obligations.OutFlushPadsToAByte : Prop :=
  decodeWord 0x00000071 = .command .outFlush ∧
  ∀ s : State,
    (s.portDraws.head? ≠ some true →
      ∃ t k, exec .outFlush s = .next t ∧ k < 8 ∧ t.outBits = s.outBits ++ List.replicate k false ∧
        t.outBits.length % 8 = 0 ∧
        t = { s with busy := false, portDraws := s.portDraws.tail, outBits := t.outBits }) ∧
    (s.portDraws.head? = some true →
      exec .outFlush s = .next { s with portDraws := s.portDraws.tail, err := true, errCode := 4, busy := false })

/-- R61: InRead's three answers; the data's bits are the stream's next bits, first bit most significant. -/
def Obligations.InReadAnswers : Prop :=
  ∀ (n : Nat) (s : State), 1 ≤ n → n ≤ 32 →
    (s.portDraws.head? = some true → portRead n s = (.ioErr, { s with portDraws := s.portDraws.tail })) ∧
    (s.portDraws.head? ≠ some true → s.inBits.length < s.inPos + n →
      portRead n s = (.eod, { s with portDraws := s.portDraws.tail })) ∧
    (s.portDraws.head? ≠ some true → s.inPos + n ≤ s.inBits.length →
      ∃ v : BitVec n,
        portRead n s = (.data v, { s with portDraws := s.portDraws.tail, inPos := s.inPos + n }) ∧
        v.toNat = num ((s.inBits.drop s.inPos).take n) ∧
        ∀ k, k < n → s.inBits[s.inPos + k]? = some (v.getMsbD k))

/-- R62, R63: OutWrite appends the `n` bits of the value, OutWriteBits the bits of a code one by one; a failure at
one bit keeps the bits before it. -/
def Obligations.OutWriteAppends : Prop :=
  (∀ (n : Nat) (v : BitVec n) (s : State),
    (bitsOf v).length = n ∧ num (bitsOf v) = v.toNat ∧
    (s.portDraws.head? ≠ some true →
      writeField v s = .done () { s with portDraws := s.portDraws.tail, outBits := s.outBits ++ bitsOf v }) ∧
    (s.portDraws.head? = some true → writeField v s = .raised .ioError { s with portDraws := s.portDraws.tail })) ∧
  (∀ (c : Bits) (s : State),
    bitsOf (BitVec.ofNat c.length (num c)) = c ∧ writeBits [] s = .done () s ∧
    ((∀ j, j < c.length → s.portDraws[j]? ≠ some true) →
      writeBits c s = .done () { s with portDraws := s.portDraws.drop c.length, outBits := s.outBits ++ c }) ∧
    (∀ j, j < c.length → (∀ k, k < j → s.portDraws[k]? ≠ some true) → s.portDraws[j]? = some true →
      writeBits c s =
        .raised .ioError { s with portDraws := s.portDraws.drop (j + 1), outBits := s.outBits ++ c.take j }))

/-- R66, R67, R83: bytes to bits and back, first bit bit 7 of the first byte, an incomplete last byte no byte of the
output; loading the input and draining the output while BUSY = 0, refused while BUSY = 1. -/
def Obligations.StreamBytesAndHostMoves : Prop :=
  (∀ B : List Byte, (bytesToBits B).length = 8 * B.length ∧ wholeBytes (bytesToBits B) = B ∧
    ∀ j i (h : j < B.length), i < 8 → (bytesToBits B)[8 * j + i]? = some (B[j].getLsbD (7 - i))) ∧
  (∀ (c : Bits), (wholeBytes c).length = c.length / 8 ∧ bytesToBits (wholeBytes c) = c.take (8 * (c.length / 8)) ∧
    ∀ j (h : j < (wholeBytes c).length), (wholeBytes c)[j].toNat = num ((c.drop (8 * j)).take 8)) ∧
  (∀ (s : State) (B : List Byte) (rest : List HostMove),
    (s.hostMoves = .loadInput B :: rest →
      step s = if s.busy then .refused .streamChangeWhileBusy
        else .next { s with hostMoves := rest, inBits := bytesToBits B, inPos := 0 }) ∧
    (s.hostMoves = .drainOutput :: rest →
      step s = if s.busy then .refused .streamChangeWhileBusy
        else .next { s with hostMoves := rest, outBits := [], hostReplies := s.hostReplies ++ [.bits s.outBits] }))

/-! ### The frequency table -/

/-- R131: FREQ_ADD counts one byte and changes nothing else; at 2^32 - 1 it raises COUNT_OVERFLOW; the sentinel is
not encodable as its operand. -/
def Obligations.FreqAddCounts : Prop :=
  ∀ (b : Byte) (s : State),
    decodeWord (0x00000011 ||| (b.setWidth 32 <<< 8)) = .command (.freqAdd b) ∧
    decodeWord (0x00010011 ||| (b.setWidth 32 <<< 8)) = .illegal .byteOperandTooWide ∧
    byteSymbol b ≠ Config.eos ∧
    (s.count (byteSymbol b) ≠ 0xFFFFFFFF →
      ∃ t, exec (.freqAdd b) s = .next t ∧
        (t.count (byteSymbol b)).toNat = (s.count (byteSymbol b)).toNat + 1 ∧
        (∀ x, x ≠ byteSymbol b → t.count x = s.count x) ∧ t = { s with freq := t.freq, busy := false }) ∧
    (s.count (byteSymbol b) = 0xFFFFFFFF →
      exec (.freqAdd b) s = .next { s with err := true, errCode := 9, busy := false })

/-- R132: FREQ_SCAN adds the occurrences of every byte left in the input, advances IN_POS past whole bytes, and
changes nothing else. -/
def Obligations.FreqScanCountsTheInput : Prop :=
  ∀ s : State, NoPortFailure s →
    (∀ b : Byte, (s.count (byteSymbol b)).toNat + (bytesAhead s).count b < 2 ^ 32) →
    ∃ t, exec .freqScan s = .next t ∧
      (∀ b : Byte, (t.count (byteSymbol b)).toNat = (s.count (byteSymbol b)).toNat + (bytesAhead s).count b) ∧
      t.count Config.eos = s.count Config.eos ∧ t.inPos = s.inPos + 8 * (bitsLeft s / 8) ∧
      t = { s with busy := false, freq := t.freq, inPos := t.inPos, portDraws := t.portDraws }

/-- R132, R280: FREQ_SCAN's errors. A port failure at the `k`-th read keeps the counts of the bytes before it; a byte
whose count is then at its maximum has been read when COUNT_OVERFLOW is raised, and the counts before it stay. -/
def Obligations.FreqScanErrors : Prop :=
  (∀ (s : State) (k : Nat), k ≤ bitsLeft s / 8 → (∀ j, j < k → s.portDraws[j]? ≠ some true) →
    s.portDraws[k]? = some true →
    (∀ b : Byte, (s.count (byteSymbol b)).toNat + ((bytesAhead s).take k).count b < 2 ^ 32) →
    ∃ t, exec .freqScan s = .next t ∧ t.inPos = s.inPos + 8 * k ∧
      (∀ b : Byte, (t.count (byteSymbol b)).toNat =
        (s.count (byteSymbol b)).toNat + ((bytesAhead s).take k).count b) ∧
      t.count Config.eos = s.count Config.eos ∧
      t = { s with busy := false, err := true, errCode := 4, freq := t.freq, inPos := t.inPos,
                   portDraws := s.portDraws.drop (k + 1) }) ∧
  (∀ (s : State) (B : List Byte) (b : Byte) (bs : List Byte), bytesAhead s = B ++ b :: bs →
    (∀ j, j ≤ B.length → s.portDraws[j]? ≠ some true) →
    (∀ x : Byte, (s.count (byteSymbol x)).toNat + B.count x < 2 ^ 32) →
    (s.count (byteSymbol b)).toNat + B.count b = 2 ^ 32 - 1 →
    ∃ t, exec .freqScan s = .next t ∧
      (∀ x : Byte, (t.count (byteSymbol x)).toNat = (s.count (byteSymbol x)).toNat + B.count x) ∧
      t.count Config.eos = s.count Config.eos ∧
      t = { s with busy := false, err := true, errCode := 9, freq := t.freq, inPos := s.inPos + 8 * (B.length + 1),
                   portDraws := s.portDraws.drop (B.length + 1) })

/-- R135: FREQ_INIT then FREQ_SCAN over the bytes `B` from IN_POS = 0, with no error, leaves the occurrences of each
byte and 1 for the sentinel; with no port failure and no count reaching 2^32 there is no error. -/
def Obligations.FreqInitThenScanCounts : Prop :=
  ∀ (s : State) (B : List Byte), s.err = false → s.inBits = bytesToBits B → s.inPos = 0 →
    (∀ t u, exec .freqInit s = .next t → exec .freqScan t = .next u → u.err = false →
      (∀ b : Byte, (u.count (byteSymbol b)).toNat = B.count b) ∧ u.count Config.eos = 1 ∧
      u.freq = frequencyOf B) ∧
    (NoPortFailure s → (∀ b : Byte, B.count b < 2 ^ 32) →
      ∃ t u, exec .freqInit s = .next t ∧ exec .freqScan t = .next u ∧ u.err = false)

/-- R130, R133: FREQ_INIT's table and FREQ_READ's result, each with its whole next state; a word with a symbol outside
0..256 is illegal (R94). That the meaning of FREQ_READ, given such a symbol, ends with ILLEGAL_COMMAND is the model's own
path, which the decoder never takes: log 16. -/
def Obligations.FreqInitAndReadResults : Prop :=
  decodeWord 0x00000010 = .command .freqInit ∧
  (∀ s : State, ∃ t, exec .freqInit s = .next t ∧ (∀ x : Symbol, x ≠ Config.eos → t.count x = 0) ∧
    t.count Config.eos = 1 ∧ t = { s with freq := t.freq, busy := false }) ∧
  exec .freqInit State.reset = .next State.reset ∧
  (∀ (x : Symbol) (s : State),
    decodeWord (0x00000013 ||| ((symbolField x).setWidth 32 <<< 8)) = .command (.freqRead (symbolField x)) ∧
    exec (.freqRead (symbolField x)) s = .next { s with result := s.count x, busy := false }) ∧
  (∀ (v : BitVec 9) (s : State), 256 < v.toNat →
    decodeWord (0x00000013 ||| (v.setWidth 32 <<< 8)) = .illegal .symbolOutOfRange ∧
    exec (.freqRead v) s = .next { s with err := true, errCode := 5, busy := false }) ∧
  (∀ s : State, Inv s → ∃ t, exec freqReadEos s = .next t ∧ t.result = 1)

/-! ### The tree builder -/

/-- R151: with the sentinel counted once, the built tree has exactly one leaf per counted symbol, `L - 1` internal
nodes, `2L - 1 <= 513` nodes, the sentinel once, a leaf root exactly when `L = 1`, and depth at most `L - 1`. -/
def Obligations.BuiltTreeProperties : Prop :=
  ∀ freq : Vector Word 257, freq[Config.eos] = 1 →
    ∃ t, buildTree freq = some t ∧
      (treeLeaves t).Perm (allSymbols.filter fun x => freq[x] ≠ 0) ∧
      (treeLeaves t).length ≤ 257 ∧
      treeInternal t + 1 = (treeLeaves t).length ∧ treeSize t + 1 = 2 * (treeLeaves t).length ∧ treeSize t ≤ 513 ∧
      (treeLeaves t).count Config.eos = 1 ∧ ((∃ x, t = .leaf x) ↔ (treeLeaves t).length = 1) ∧
      ((treeLeaves t).length = 1 → t = .leaf Config.eos) ∧
      treeDepth t + 1 ≤ (treeLeaves t).length ∧ treeDepth t ≤ 256

/-- R150: TREE_BUILD puts `build(FREQ)` in TREE, arms the decoder, clears CODES_VALID and changes nothing else but the
heap. That the heap is left holding one node is the model's choice, log 6. -/
def Obligations.TreeBuildInstallsTheTree : Prop :=
  ∀ s : State, s.count Config.eos = 1 →
    ∃ t tree, exec .treeBuild s = .next t ∧ buildTree s.freq = some tree ∧ t.heap.length = 1 ∧
      t = { s with busy := false, tree := some tree, codesValid := false, dstate := .atRoot, dpath := [],
                   heap := t.heap }

/-- R145, R146, R147: the binary heap of the hardware builds the same tree as taking the least key over a set. -/
def Obligations.HeapRealizationBuildsTheSameTree : Prop :=
  ∀ freq : Vector Word 257, heapBuildTree freq = buildTree freq

/-- R143: a leaf's weight is its count, a merged node's the exact sum, and no weight at any stage of the merge exceeds
the sum of all counts, at most `257 * (2^32 - 1) < 2^41`. -/
def Obligations.WeightsNeverOverflow : Prop :=
  ∀ freq : Vector Word 257,
    (∀ x ∈ leafNodes freq, ∃ y, x.tree = .leaf y ∧ x.weight = freq[y].toNat ∧ x.weight < 2 ^ 32) ∧
    (∀ index a b, (mergeNodes index a b).weight = a.weight + b.weight) ∧
    (∀ fuel, ∀ x ∈ mergeAll fuel (leafNodes freq).length (leafNodes freq),
      x.weight ≤ (allSymbols.map fun y => freq[y].toNat).sum ∧
      x.weight ≤ 257 * (2 ^ 32 - 1) ∧ x.weight < 2 ^ Config.weightWidth)

/-- R144, R148: `remove_min` answers the node with the least key `(weight, index)` and keeps the others, whenever the
indices are distinct. -/
def Obligations.RemoveMinTakesTheLeastKey : Prop :=
  ∀ p : List HeapNode, p ≠ [] → (p.map HeapNode.index).Nodup →
    ∃ m rest, takeMin p = some (m, rest) ∧ p.Perm (m :: rest) ∧
      ∀ x ∈ rest, m.weight < x.weight ∨ (m.weight = x.weight ∧ m.index < x.index)

/-- R152: among all full binary trees whose leaves are the symbols with nonzero count, each once, the built tree has
the least sum of count times depth. -/
def Obligations.BuiltTreeIsOptimal : Prop :=
  ∀ freq : Vector Word 257, freq[Config.eos] = 1 →
    ∃ t, buildTree freq = some t ∧ (treeLeaves t).Perm (allSymbols.filter fun x => freq[x] ≠ 0) ∧
      ∀ u : Tree, (treeLeaves u).Perm (allSymbols.filter fun x => freq[x] ≠ 0) →
        treeCost freq 0 t ≤ treeCost freq 0 u

/-! ### The code table -/

/-- R180: CODE_DERIVE records for each symbol the path of its last leaf in preorder, None for the others, sets
CODES_VALID and changes nothing else; NO_TREE when there is none. -/
def Obligations.CodeDeriveRecordsPaths : Prop :=
  decodeWord 0x00000030 = .command .codeDerive ∧
  ∀ s : State,
    (∀ t, s.tree = some t →
      ∃ u, exec .codeDerive s = .next u ∧ u.codesValid = true ∧ (∀ x, u.codeFor x = lastPath x t) ∧
        u.code = codesOf t ∧ u = { s with busy := false, code := u.code, codesValid := true }) ∧
    (s.tree = none → exec .codeDerive s = .next { s with err := true, errCode := 6, busy := false })

/-- R182, R183: for a tree with distinct leaves, each code leads to its own leaf, every leaf has one, and no code is a
prefix of another symbol's. -/
def Obligations.CodesArePrefixFree : Prop :=
  ∀ t : Tree, DistinctLeaves t →
    (∀ x c, (codesOf t)[x] = some c → subtree t c = some (.leaf x)) ∧
    (∀ x : Symbol, (codesOf t)[x] = none ↔ x ∉ treeLeaves t) ∧
    (∀ (x y : Symbol) c d, x ≠ y → (codesOf t)[x] = some c → (codesOf t)[y] = some d → ¬ c <+: d)

/-- R184: a code of a legal tree leads to its leaf in at most 256 steps, in none only for `Leaf(256)`; with distinct
leaves the code lengths fill the tree exactly: the sum of `2^-len` is 1, here scaled by `2^256`. -/
def Obligations.CodeLengthsFillTheTree : Prop :=
  ∀ t : Tree, legalTree t = true →
    (∀ (x : Symbol) c, (codesOf t)[x] = some c →
      subtree t c = some (.leaf x) ∧ c.length ≤ Config.maxCodeLen ∧ (c = [] → t = .leaf Config.eos)) ∧
    (DistinctLeaves t →
      (allSymbols.map fun x => match (codesOf t)[x] with
        | some c => 2 ^ (256 - c.length)
        | none => 0).sum = 2 ^ 256)

/-- R181: CODE_READ's RESULT and CODE_BITS, bit by bit, for every symbol and window; NO_CODES leaves both as they
were. That the meaning, given a symbol outside 0..256, ends with ILLEGAL_COMMAND is the model's own path, which the decoder
never takes: log 16. -/
def Obligations.CodeReadShowsTheCode : Prop :=
  (∀ (x : Symbol) (k : BitVec 3) (s : State),
    decodeWord (0x00000031 ||| ((symbolField x).setWidth 32 <<< 8) ||| (k.setWidth 32 <<< 17)) =
      .command (.codeRead (symbolField x) k) ∧
    (s.codesValid = false →
      exec (.codeRead (symbolField x) k) s = .next { s with err := true, errCode := 7, busy := false }) ∧
    (s.codesValid = true → s.codeFor x = none →
      exec (.codeRead (symbolField x) k) s = .next { s with result := 0, codeBits := 0, busy := false }) ∧
    (∀ p, s.codesValid = true → s.codeFor x = some p → p.length ≤ 256 →
      ∃ t, exec (.codeRead (symbolField x) k) s = .next t ∧
        t.result = 0x80000000 ||| BitVec.ofNat 32 p.length ∧
        t.codeBits.toNat = num p / 2 ^ (32 * k.toNat) % 2 ^ 32 ∧
        (∀ j, j < 32 → 32 * k.toNat + j < p.length →
          p[p.length - 1 - (32 * k.toNat + j)]? = some (t.codeBits.getLsbD j)) ∧
        (p.length ≤ 32 * k.toNat → t.codeBits = 0) ∧
        t = { s with result := t.result, codeBits := t.codeBits, busy := false })) ∧
  (∀ (v : BitVec 9) (k : BitVec 3) (s : State), 256 < v.toNat →
    exec (.codeRead v k) s = .next { s with err := true, errCode := 5, busy := false })

/-! ### The header codec -/

/-- R99, R201, R202: HDR_WRITE appends `ser(TREE)`, of `(internal nodes) + 10 * (leaves) = 11L - 1` bits, at most 2826,
and changes nothing else; NO_TREE writes nothing; where the port fails first at the `j`-th field, a flag bit or a 9-bit
symbol, the fields before it stay and the error is IO_ERROR. -/
def Obligations.HeaderWriteSerializes : Prop :=
  decodeWord 0x00000041 = .command .hdrWrite ∧
  (∀ l r : Tree, serialize (.node l r) = false :: (serialize l ++ serialize r)) ∧
  (∀ x : Symbol, serialize (.leaf x) = true :: bitsOf (BitVec.ofNat 9 x.val)) ∧
  (∀ t : Tree, (serialize t).length = treeInternal t + 10 * (treeLeaves t).length ∧
    (serialize t).length + 1 = 11 * (treeLeaves t).length ∧ (legalTree t = true → (serialize t).length ≤ 2826) ∧
    (headerFields t).flatten = serialize t ∧
    (headerFields t).length = treeInternal t + 2 * (treeLeaves t).length) ∧
  ∀ s : State,
    (s.tree = none → exec .hdrWrite s = .next { s with err := true, errCode := 6, busy := false }) ∧
    (∀ t, s.tree = some t →
      ((∀ j, j < (headerFields t).length → s.portDraws[j]? ≠ some true) →
        exec .hdrWrite s = .next { s with
          busy := false, outBits := s.outBits ++ serialize t, portDraws := s.portDraws.drop (headerFields t).length }) ∧
      (∀ j, j < (headerFields t).length → (∀ k, k < j → s.portDraws[k]? ≠ some true) → s.portDraws[j]? = some true →
        exec .hdrWrite s = .next { s with
          busy := false, err := true, errCode := 4, outBits := s.outBits ++ ((headerFields t).take j).flatten,
          portDraws := s.portDraws.drop (j + 1) }))

/-- R207, R185: HDR_READ of `ser(t)` gives back `t` and stops at the first bit after it, for every tree TREE can hold;
HDR_WRITE then reproduces the header bits, and CODE_DERIVE gives the code table of `t`. -/
def Obligations.HeaderRoundTrip : Prop :=
  ∀ (t : Tree) (s : State) (rest : Bits), legalTree t = true → NoPortFailure s →
    s.inBits.drop s.inPos = serialize t ++ rest →
    ∃ u v w, exec .hdrRead s = .next u ∧ u.tree = some t ∧ u.inPos = s.inPos + (serialize t).length ∧
      u = { s with busy := false, tree := some t, codesValid := false, dstate := .atRoot, dpath := [],
                   hdrStack := u.hdrStack, hdrCount := u.hdrCount, inPos := u.inPos, portDraws := u.portDraws } ∧
      exec .hdrWrite u = .next v ∧ v.outBits = s.outBits ++ serialize t ∧
      exec .codeDerive u = .next w ∧ w.code = codesOf t

/-- R205, R206: with no port failure, HDR_READ succeeds exactly when the bits ahead begin with the serialization of a
legal tree; then it consumes exactly those bits; else it ends with MALFORMED_HEADER. -/
def Obligations.HeaderReadAcceptsExactlyHeaders : Prop :=
  ∀ s u : State, s.err = false → NoPortFailure s → exec .hdrRead s = .next u →
    (u.err = false →
      ∃ t, u.tree = some t ∧ legalTree t = true ∧ s.inPos ≤ u.inPos ∧
        (s.inBits.drop s.inPos).take (u.inPos - s.inPos) = serialize t) ∧
    (u.err = true →
      u.errCode = 2 ∧ ¬ ∃ t rest, legalTree t = true ∧ s.inBits.drop s.inPos = serialize t ++ rest)

/-- R205, R280, R84: after any error of HDR_READ there is no tree, no code table and an unarmed decoder, and nothing was
written; IN_POS stands where the reader stopped, so what it read stays consumed. In terms of the header's fields (`t` is
any tree whose header the bits ahead begin as): a port failure at the `j`-th field, an input that ends inside it, a
514th node and a symbol field of 257..511 each stop the reader after the fields before, the bad symbol field itself
being read. -/
def Obligations.HeaderReadFailureState : Prop :=
  (∀ s u : State, s.err = false → exec .hdrRead s = .next u → u.err = true →
    (u.errCode = 2 ∨ u.errCode = 4) ∧
    ((∃ e v, readNode (Config.nodeCap + 1) (startHeader s) = .raised e v ∧ u.errCode = errorCode e ∧
        u.inPos = v.inPos) ∨
      (∃ x v, readNode (Config.nodeCap + 1) (startHeader s) = .done (.leaf x) v ∧ x ≠ Config.eos ∧ u.errCode = 2 ∧
        u.inPos = v.inPos)) ∧
    u = { s with busy := false, err := true, errCode := u.errCode, tree := none, codesValid := false,
                 dstate := .unarmed, dpath := [], hdrStack := u.hdrStack, hdrCount := u.hdrCount,
                 inPos := u.inPos, portDraws := u.portDraws }) ∧
  (∀ (s : State) (t : Tree) (j : Nat) (field rest : Bits), (headerFields t)[j]? = some field →
    flagCount ((headerFields t).take j) ≤ 513 →
    s.inBits.drop s.inPos = ((headerFields t).take j).flatten ++ rest →
    (∀ k, k < j → s.portDraws[k]? ≠ some true) →
    ∃ u, exec .hdrRead s = .next u ∧
      (flagCount ((headerFields t).take (j + 1)) = 514 →
        u.err = true ∧ u.errCode = 2 ∧ u.inPos = s.inPos + ((headerFields t).take j).flatten.length) ∧
      (flagCount ((headerFields t).take (j + 1)) ≤ 513 →
        (s.portDraws[j]? = some true →
          u.err = true ∧ u.errCode = 4 ∧ u.inPos = s.inPos + ((headerFields t).take j).flatten.length) ∧
        (s.portDraws[j]? ≠ some true → rest.length < field.length →
          u.err = true ∧ u.errCode = 2 ∧ u.inPos = s.inPos + ((headerFields t).take j).flatten.length) ∧
        (∀ (v : BitVec 9) rest', s.portDraws[j]? ≠ some true → field.length = 9 → 256 < v.toNat →
          rest = bitsOf v ++ rest' →
          u.err = true ∧ u.errCode = 2 ∧ u.inPos = s.inPos + ((headerFields t).take j).flatten.length + 9))) ∧
  (∀ (s : State) (x : Symbol) (rest : Bits), x ≠ Config.eos → s.inBits.drop s.inPos = serialize (.leaf x) ++ rest →
    (∀ k, k < 2 → s.portDraws[k]? ≠ some true) →
    ∃ u, exec .hdrRead s = .next u ∧ u.err = true ∧ u.errCode = 2 ∧ u.inPos = s.inPos + 10)

/-- R206: `ser` is a prefix code over trees, so what HDR_READ reads is determined by the bits. -/
def Obligations.SerializationIsAPrefixCode : Prop :=
  ∀ (t u : Tree) (a b : Bits), serialize t ++ a = serialize u ++ b → t = u ∧ a = b

/-- R200, R204: MAGIC_WRITE appends the tag; MAGIC_READ accepts exactly the tag and otherwise raises
UNRECOGNIZED_FORMAT, past a wrong tag, and consuming nothing when fewer than 32 bits remain. -/
def Obligations.FormatTagCommands : Prop :=
  decodeWord 0x00000040 = .command .magicWrite ∧ decodeWord 0x00000042 = .command .magicRead ∧
  ∀ s : State,
    (s.portDraws.head? = some true →
      exec .magicWrite s = .next { s with portDraws := s.portDraws.tail, err := true, errCode := 4, busy := false } ∧
      exec .magicRead s = .next { s with portDraws := s.portDraws.tail, err := true, errCode := 4, busy := false }) ∧
    (s.portDraws.head? ≠ some true →
      exec .magicWrite s =
        .next { s with outBits := s.outBits ++ bitsOf s.magic, portDraws := s.portDraws.tail, busy := false } ∧
      (s.inBits.length < s.inPos + 32 →
        exec .magicRead s =
          .next { s with portDraws := s.portDraws.tail, err := true, errCode := 1, busy := false }) ∧
      (s.inPos + 32 ≤ s.inBits.length → (s.inBits.drop s.inPos).take 32 ≠ bitsOf s.magic →
        exec .magicRead s = .next { s with
          inPos := s.inPos + 32, portDraws := s.portDraws.tail, err := true, errCode := 1, busy := false }) ∧
      ((s.inBits.drop s.inPos).take 32 = bitsOf s.magic →
        exec .magicRead s =
          .next { s with inPos := s.inPos + 32, portDraws := s.portDraws.tail, busy := false }))

/-! ### The encoder -/

/-- R216: ENC_SYM emits the code of its symbol and changes nothing else; NO_CODES, NO_CODE; a port failure keeps the
bits before it. That the meaning, given a symbol outside 0..256, ends with ILLEGAL_COMMAND is the model's own path, which
the decoder never takes: log 16. -/
def Obligations.EncSymEmitsTheCode : Prop :=
  (∀ (x : Symbol) (s : State),
    decodeWord (0x00000050 ||| ((symbolField x).setWidth 32 <<< 8)) = .command (.encSym (symbolField x)) ∧
    (s.codesValid = false →
      exec (.encSym (symbolField x)) s = .next { s with err := true, errCode := 7, busy := false }) ∧
    (s.codesValid = true → s.codeFor x = none →
      exec (.encSym (symbolField x)) s = .next { s with err := true, errCode := 8, busy := false }) ∧
    (∀ c, s.codesValid = true → s.codeFor x = some c →
      (NoPortFailure s →
        exec (.encSym (symbolField x)) s = .next { s with
          outBits := s.outBits ++ c, portDraws := s.portDraws.drop c.length, busy := false }) ∧
      (∀ j, j < c.length → (∀ k, k < j → s.portDraws[k]? ≠ some true) → s.portDraws[j]? = some true →
        exec (.encSym (symbolField x)) s = .next { s with
          outBits := s.outBits ++ c.take j, portDraws := s.portDraws.drop (j + 1), err := true, errCode := 4,
          busy := false }))) ∧
  (∀ (v : BitVec 9) (s : State), 256 < v.toNat →
    exec (.encSym v) s = .next { s with err := true, errCode := 5, busy := false })

/-- R211: ENC_PASS with no error appends exactly `body(CODE, B)`, where `B` is the bytes from IN_POS to the end, and
changes nothing else but IN_POS; with a code for every byte and the sentinel, and no port failure, there is no error. -/
def Obligations.EncPassWritesTheBody : Prop :=
  (∀ (s : State) (body : Bits), s.codesValid = true → NoPortFailure s → bodyOf s.code (bytesAhead s) = some body →
    ∃ t, exec .encPass s = .next t ∧
      t = { s with busy := false, outBits := s.outBits ++ body, inPos := s.inPos + 8 * (bitsLeft s / 8),
                   portDraws := t.portDraws }) ∧
  (∀ s t : State, s.err = false → exec .encPass s = .next t → t.err = false →
    ∃ body, bodyOf s.code (bytesAhead s) = some body ∧ t.outBits = s.outBits ++ body)

/-- R214, R217, R280: where ENC_PASS stops and what it leaves. NO_CODES: nothing is read. NO_CODE: after the byte without
a code, the codes of the bytes before it written; also when the sentinel has none. IO_ERROR, the port failing first at
the read after the bytes `B`, or at the `j`-th bit of the next byte's code or of the sentinel's: everything before that
operation stays. Each byte before it has taken one operation to read and one for each bit of its code. -/
def Obligations.EncPassStopsAtAMissingCode : Prop :=
  ∀ s : State,
    (s.codesValid = false → exec .encPass s = .next { s with err := true, errCode := 7, busy := false }) ∧
    (∀ B b B' c, s.codesValid = true → NoPortFailure s → bytesAhead s = B ++ b :: B' →
      codesOfBytes s.code B = some c → s.codeFor (byteSymbol b) = none →
      ∃ t, exec .encPass s = .next t ∧
        t = { s with busy := false, err := true, errCode := 8, outBits := s.outBits ++ c,
                     inPos := s.inPos + 8 * (B.length + 1), portDraws := t.portDraws }) ∧
    (∀ c, s.codesValid = true → NoPortFailure s → codesOfBytes s.code (bytesAhead s) = some c →
      s.codeFor Config.eos = none →
      ∃ t, exec .encPass s = .next t ∧
        t = { s with busy := false, err := true, errCode := 8, outBits := s.outBits ++ c,
                     inPos := s.inPos + 8 * (bitsLeft s / 8), portDraws := t.portDraws }) ∧
    (∀ B B' c n, s.codesValid = true → bytesAhead s = B ++ B' → codesOfBytes s.code B = some c →
      (∀ k, k < n → s.portDraws[k]? ≠ some true) → s.portDraws[n]? = some true →
      (n = B.length + c.length →
        exec .encPass s = .next { s with
          busy := false, err := true, errCode := 4, outBits := s.outBits ++ c, inPos := s.inPos + 8 * B.length,
          portDraws := s.portDraws.drop (n + 1) }) ∧
      (∀ b bs p j, B' = b :: bs → s.codeFor (byteSymbol b) = some p → j < p.length →
        n = B.length + c.length + 1 + j →
        exec .encPass s = .next { s with
          busy := false, err := true, errCode := 4, outBits := s.outBits ++ c ++ p.take j,
          inPos := s.inPos + 8 * (B.length + 1), portDraws := s.portDraws.drop (n + 1) }) ∧
      (∀ p j, B' = [] → s.codeFor Config.eos = some p → j < p.length → n = B.length + c.length + 1 + j →
        exec .encPass s = .next { s with
          busy := false, err := true, errCode := 4, outBits := s.outBits ++ c ++ p.take j,
          inPos := s.inPos + 8 * B.length, portDraws := s.portDraws.drop (n + 1) }))

/-! ### The decoder -/

/-- R229: DEC_RESTART arms the decoder at the root, from any decoder state with a tree; else NO_TREE. -/
def Obligations.DecRestartArms : Prop :=
  decodeWord 0x00000060 = .command .decRestart ∧
  ∀ s : State,
    (s.tree ≠ none → exec .decRestart s = .next { s with dstate := .atRoot, dpath := [], busy := false }) ∧
    (s.tree = none → exec .decRestart s = .next { s with err := true, errCode := 6, busy := false })

/-- R226, R227, R230, R231, R236: every row of the transition table, for DEC_BIT; where a port fails the decoder
stands as R236 says; the rows of UNARMED and DONE hold for DEC_SYM and DEC_PASS too. -/
def Obligations.DecBitTransitions : Prop :=
  (∀ (s : State) (i : Instr), i = .decBit ∨ i = .decSym ∨ i = .decPass →
    (s.dstate = .unarmed → exec i s = .next { s with err := true, errCode := 6, busy := false }) ∧
    (s.dstate = .done → exec i s = .next { s with err := true, errCode := 10, busy := false })) ∧
  (∀ s : State, s.dstate = .atRoot → s.dpath = [] → s.tree = some (.leaf Config.eos) →
    exec .decBit s = .next { s with dstate := .done, result := 0x00030100, busy := false }) ∧
  (∀ (s : State) (t l r : Tree), s.dstate = .atRoot ∨ s.dstate = .midPath → s.tree = some t →
    subtree t s.dpath = some (.node l r) →
    (s.portDraws.head? = some true →
      exec .decBit s = .next { s with portDraws := s.portDraws.tail, err := true, errCode := 4, busy := false }) ∧
    (s.portDraws.head? ≠ some true → s.inBits.length ≤ s.inPos →
      exec .decBit s = .next { s with portDraws := s.portDraws.tail, err := true, errCode := 3, busy := false }) ∧
    (∀ b, s.portDraws.head? ≠ some true → s.inBits[s.inPos]? = some b →
      (∀ l' r', (if b then r else l) = .node l' r' →
        exec .decBit s = .next { s with
          dstate := .midPath, dpath := s.dpath ++ [b], result := 0, inPos := s.inPos + 1,
          portDraws := s.portDraws.tail, busy := false }) ∧
      ((if b then r else l) = .leaf Config.eos →
        exec .decBit s = .next { s with
          dstate := .done, dpath := [], result := 0x00030100, inPos := s.inPos + 1,
          portDraws := s.portDraws.tail, busy := false }) ∧
      (∀ x, x ≠ Config.eos → (if b then r else l) = .leaf x →
        (s.portDraws[1]? ≠ some true →
          exec .decBit s = .next { s with
            dstate := .atRoot, dpath := [], result := BitVec.ofNat 32 (0x00010000 + x.val), inPos := s.inPos + 1,
            portDraws := s.portDraws.drop 2, outBits := s.outBits ++ bitsOf (symbolByte x), busy := false }) ∧
        (s.portDraws[1]? = some true →
          exec .decBit s = .next { s with
            dstate := .atRoot, dpath := [], result := BitVec.ofNat 32 (0x00010000 + x.val), inPos := s.inPos + 1,
            portDraws := s.portDraws.drop 2, err := true, errCode := 4, busy := false }))))

/-- R232, R236, R280: DEC_SYM finishes the code begun: where the bits ahead lead from DPATH to a leaf it reads exactly
them and settles that leaf; a leaf root is settled with no bit read. Where the input ends at an internal node, or the port
fails first at the read there, the bits read stay consumed and DPATH holds the partial code; where it fails at the write
of the byte, the byte is lost and the decoder stands at the root. -/
def Obligations.DecSymReachesTheLeaf : Prop :=
  (∀ (s : State) (t : Tree) (c rest : Bits) (x : Symbol), s.dstate = .atRoot ∨ s.dstate = .midPath →
    s.tree = some t → NoPortFailure s → c ≠ [] → subtree t (s.dpath ++ c) = some (.leaf x) →
    s.inBits.drop s.inPos = c ++ rest →
    ∃ u, exec .decSym s = .next u ∧
      (x = Config.eos → u = { s with
        busy := false, dstate := .done, dpath := [], result := 0x00030100, inPos := s.inPos + c.length,
        portDraws := u.portDraws }) ∧
      (x ≠ Config.eos → u = { s with
        busy := false, dstate := .atRoot, dpath := [], result := BitVec.ofNat 32 (0x00010000 + x.val),
        inPos := s.inPos + c.length, outBits := s.outBits ++ bitsOf (symbolByte x),
        portDraws := u.portDraws })) ∧
  (∀ s : State, s.dstate = .atRoot → s.dpath = [] → s.tree = some (.leaf Config.eos) →
    exec .decSym s = .next { s with dstate := .done, result := 0x00030100, busy := false }) ∧
  (∀ (s : State) (t l r : Tree) (c rest : Bits), s.dstate = .atRoot ∨ s.dstate = .midPath → s.tree = some t →
    subtree t (s.dpath ++ c) = some (.node l r) → s.inBits.drop s.inPos = c ++ rest →
    (∀ k, k < c.length → s.portDraws[k]? ≠ some true) →
    ∀ u, u = { s with
        busy := false, err := true, dstate := if c = [] then s.dstate else .midPath, dpath := s.dpath ++ c,
        result := if c = [] then s.result else 0, inPos := s.inPos + c.length,
        portDraws := s.portDraws.drop (c.length + 1) } →
      (s.portDraws[c.length]? = some true → exec .decSym s = .next { u with errCode := 4 }) ∧
      (s.portDraws[c.length]? ≠ some true → rest = [] → exec .decSym s = .next { u with errCode := 3 })) ∧
  (∀ (s : State) (t : Tree) (c rest : Bits) (x : Symbol), s.dstate = .atRoot ∨ s.dstate = .midPath →
    s.tree = some t → c ≠ [] → subtree t (s.dpath ++ c) = some (.leaf x) → x ≠ Config.eos →
    s.inBits.drop s.inPos = c ++ rest → (∀ k, k < c.length → s.portDraws[k]? ≠ some true) →
    s.portDraws[c.length]? = some true →
    exec .decSym s = .next { s with
      busy := false, err := true, errCode := 4, dstate := .atRoot, dpath := [],
      result := BitVec.ofNat 32 (0x00010000 + x.val), inPos := s.inPos + c.length,
      portDraws := s.portDraws.drop (c.length + 1) })

/-- R228: DEC_PASS is exactly DEC_SYM repeated: it ends where one DEC_SYM ends in an error or at the sentinel, and
otherwise goes on from where that DEC_SYM left off. -/
def Obligations.DecPassIsDecSymRepeated : Prop :=
  ∀ s u : State, Inv s → s.err = false → exec .decSym s = .next u →
    exec .decPass s = if passOver u then .next u else exec .decPass u

/-- R234: DEC_PASS from the root over the body of the bytes `B` writes exactly `B`, ends in DONE and leaves IN_POS at
the first bit after it; for every legal tree with distinct leaves, as TREE_BUILD makes. -/
def Obligations.DecodingInvertsEncoding : Prop :=
  ∀ (t : Tree) (B : List Byte) (body rest : Bits) (s : State), DistinctLeaves t → legalTree t = true →
    bodyOf (codesOf t) B = some body → s.tree = some t → s.dstate = .atRoot → s.dpath = [] → NoPortFailure s →
    s.inBits.drop s.inPos = body ++ rest →
    ∃ u, exec .decPass s = .next u ∧
      u = { s with busy := false, dstate := .done, dpath := [], result := 0x00030100,
                   outBits := s.outBits ++ bytesToBits B, inPos := s.inPos + body.length,
                   portDraws := u.portDraws }

/-- R235, R298: from every state that meets the invariant, every command, and every pending word, reaches BUSY = 0,
whatever the ports answer. -/
def Obligations.EveryCommandReachesBusyZero : Prop :=
  ∀ s : State, Inv s →
    (∀ i : Instr, ∃ t, exec i s = .next t ∧ t.busy = false) ∧ (∃ t, engineStep s = .next t ∧ t.busy = false)

/-! ### Compression and decompression -/

/-- R260: COMPRESS over the bytes `S` writes the tag, the header of `build(F_S)` and the body, padded; and it leaves
the tables as its sub-operations do. -/
def Obligations.CompressWritesTheFile : Prop :=
  ∀ (s : State) (S : List Byte), NoPortFailure s → s.inBits = bytesToBits S → s.inPos = 0 → s.outBits = [] →
    (∀ b : Byte, S.count b < 2 ^ 32) →
    ∃ t tree body, exec .compress s = .next t ∧ buildTree (frequencyOf S) = some tree ∧
      bodyOf (codesOf tree) S = some body ∧ t.outBits = compressedFile s.magic tree body ∧
      t = { s with busy := false, freq := frequencyOf S, tree := some tree, codesValid := true, code := codesOf tree,
                   dstate := .atRoot, dpath := [], heap := t.heap, inPos := s.inBits.length, outBits := t.outBits,
                   portDraws := t.portDraws }

/-- R258: DECOMPRESS of a compressed file of a legal tree with distinct leaves, whatever follows the body, writes the
bytes of the body and stops at the first bit after it; the tag alone refused ends it with UNRECOGNIZED_FORMAT. -/
def Obligations.DecompressReadsTheFile : Prop :=
  ∀ s : State, NoPortFailure s →
    (∀ (t : Tree) (S : List Byte) (body rest : Bits), DistinctLeaves t → legalTree t = true →
      bodyOf (codesOf t) S = some body → s.outBits = [] →
      s.inBits.drop s.inPos = bitsOf s.magic ++ serialize t ++ body ++ rest →
      ∃ u, exec .decompress s = .next u ∧
        u = { s with busy := false, tree := some t, codesValid := false, dstate := .done, dpath := [],
                     result := 0x00030100, hdrStack := u.hdrStack, hdrCount := u.hdrCount,
                     inPos := s.inPos + (32 + (serialize t).length + body.length), outBits := bytesToBits S,
                     portDraws := u.portDraws }) ∧
    ((s.inBits.drop s.inPos).take 32 ≠ bitsOf s.magic →
      ∃ u, exec .decompress s = .next u ∧ u.err = true ∧ u.errCode = 1 ∧ u.tree = s.tree ∧ u.outBits = s.outBits)

/-- R259: for every byte sequence `S`, the empty one too, with no port failure and no count overflow, DECOMPRESS of what
COMPRESS writes gives `S` back, on any instance with the same tag, with no error. -/
def Obligations.CompressThenDecompress : Prop :=
  ∀ (s s' : State) (S : List Byte), NoPortFailure s → s.inBits = bytesToBits S → s.inPos = 0 → s.outBits = [] →
    (∀ b : Byte, S.count b < 2 ^ 32) →
    ∃ t, exec .compress s = .next t ∧ t.err = s.err ∧
      (NoPortFailure s' → s'.magic = s.magic → s'.inBits = bytesToBits (wholeBytes t.outBits) → s'.inPos = 0 →
        s'.outBits = [] →
        ∃ u, exec .decompress s' = .next u ∧ wholeBytes u.outBits = S ∧ u.outBits = bytesToBits S ∧ u.err = s'.err)

/-- R104: COMPRESS and DECOMPRESS do what their lists of commands do one after another, up to the first error. -/
def Obligations.SequencesAreTheirSubcommands : Prop :=
  ∀ s : State, s.err = false →
    exec .compress s = runCommands [.freqInit, .freqScan, .treeBuild, .codeDerive, .magicWrite, .hdrWrite, .inReset,
      .encPass, .outFlush] s ∧
    exec .decompress s = runCommands [.magicRead, .hdrRead, .decPass, .outFlush] s

/-! ### The whole machine -/

/-- R38: FREQ[256] is 1 at reset, FREQ_INIT sets it, and every step keeps it so. -/
def Obligations.SentinelCountStaysOne : Prop :=
  State.reset.count Config.eos = 1 ∧ (∀ s : State, ∃ t, exec .freqInit s = .next t ∧ t.count Config.eos = 1) ∧
  ∀ s t : State, s.count Config.eos = 1 → step s = .next t → t.count Config.eos = 1

/-- The reset state meets the invariant. -/
def Obligations.ResetMeetsTheInvariant : Prop := Inv State.reset

/-- R27, R30, R39, R44, R46, R277: every step from a state that meets the invariant gives one that meets it. -/
def Obligations.StepKeepsTheInvariant : Prop := ∀ s t : State, Inv s → step s = .next t → Inv t

/-- R271: an error a command ends with is one the matrix allows it. -/
def Obligations.ErrorMatrixHolds : Prop :=
  ∀ (i : Instr) (s t : State), i.wellFormed = true → s.err = false → exec i s = .next t → t.err = true →
    ∃ e ∈ mayRaise i, t.errCode = errorCode e

/-- R29, R30, R33, R34, R37, R42, R46, R48, R84, R109: what each command leaves unchanged. The output only grows, the
input bits, MAGIC and the host's side never change, and a register or table changes only where its rule names the
command as a writer. -/
def Obligations.CommandsChangeOnlyWhatTheyName : Prop :=
  ∀ (i : Instr) (s t : State), exec i s = .next t →
    t.busy = false ∧ t.magic = s.magic ∧ t.inBits = s.inBits ∧ t.hostMoves = s.hostMoves ∧
    t.hostReplies = s.hostReplies ∧ t.freeDraws = s.freeDraws ∧ (∃ n, t.portDraws = s.portDraws.drop n) ∧
    (∃ c, t.outBits = s.outBits ++ c) ∧
    (i ≠ .sreset → t.pend = s.pend ∧ t.lastOp = s.lastOp) ∧
    (i ≠ .sreset → i ≠ .clrerr → t.cmdDropped = s.cmdDropped ∧
      ((t.err = s.err ∧ t.errCode = s.errCode) ∨ (t.err = true ∧ ∃ e, t.errCode = errorCode e))) ∧
    (writesFreq i = false → t.freq = s.freq) ∧
    (writesTree i = false →
      t.tree = s.tree ∧ t.heap = s.heap ∧ t.hdrStack = s.hdrStack ∧ t.hdrCount = s.hdrCount) ∧
    (writesCode i = false → t.code = s.code) ∧ (writesCodesValid i = false → t.codesValid = s.codesValid) ∧
    (writesDecoder i = false → t.dstate = s.dstate ∧ t.dpath = s.dpath) ∧
    (writesResult i = false → t.result = s.result) ∧ (writesCodeBits i = false → t.codeBits = s.codeBits) ∧
    (movesInput i = false → t.inPos = s.inPos) ∧ (writesOutput i = false → t.outBits = s.outBits)

/-- R27, R28, R278, R279: errors do not nest; ERR and CMD_DROPPED are sticky until CLRERR, SRESET or the reset input,
and ERRCODE keeps naming the first error. -/
def Obligations.ErrorsDoNotNest : Prop :=
  ∀ s t : State, Inv s → step s = .next t →
    (s.err = true → t.err = true → t.errCode = s.errCode) ∧
    ((s.err = true ∧ t.err = false) ∨ (s.cmdDropped = true ∧ t.cmdDropped = false) →
      (s.busy = true ∧ (decodeWord s.pend = .command .clrerr ∨ decodeWord s.pend = .command .sreset)) ∨
      ∃ subOps portOps rest, s.hostMoves = .assertReset subOps portOps :: rest)

/-- R105: the port operations of one command are bounded, whatever the ports answer: the environment's draws used up by
a command are at most `workBound`, and DEC_PASS, DEC_BIT and DEC_SYM use none where TREE's root is a leaf. The counting is
the model's reading of R105, log 17: single operations, ENC_SYM with one for each bit of its code where R105 counts its
OutWriteBits as one, and DEC_PASS with the read that answers the end of data. -/
def Obligations.PortWorkIsBounded : Prop :=
  ∀ (i : Instr) (s t : State), Inv s → exec i s = .next t →
    s.portDraws.length ≤ t.portDraws.length + workBound i (bitsLeft s) s.inBits.length ∧
    (∀ x, s.tree = some (.leaf x) → i = .decPass ∨ i = .decBit ∨ i = .decSym → t.portDraws = s.portDraws)
end

