-- ==== Sys2Proof/Laws/State.lean ====
section
/-! SUPPORT. What each named update of State does to each field: one `simp` lemma per field, each true by `rfl`. -/

namespace Sys2Proof.Machine

/-! ### State.abort -/

@[simp] theorem State.abort_busy (e : ErrorKind) (s : State) : (s.abort e).busy = false := rfl
@[simp] theorem State.abort_err (e : ErrorKind) (s : State) : (s.abort e).err = true := rfl
@[simp] theorem State.abort_cmdDropped (e : ErrorKind) (s : State) : (s.abort e).cmdDropped = s.cmdDropped := rfl
@[simp] theorem State.abort_codesValid (e : ErrorKind) (s : State) : (s.abort e).codesValid = s.codesValid := rfl
@[simp] theorem State.abort_errCode (e : ErrorKind) (s : State) : (s.abort e).errCode = errorCode e := rfl
@[simp] theorem State.abort_lastOp (e : ErrorKind) (s : State) : (s.abort e).lastOp = s.lastOp := rfl
@[simp] theorem State.abort_magic (e : ErrorKind) (s : State) : (s.abort e).magic = s.magic := rfl
@[simp] theorem State.abort_result (e : ErrorKind) (s : State) : (s.abort e).result = s.result := rfl
@[simp] theorem State.abort_codeBits (e : ErrorKind) (s : State) : (s.abort e).codeBits = s.codeBits := rfl
@[simp] theorem State.abort_freq (e : ErrorKind) (s : State) : (s.abort e).freq = s.freq := rfl
@[simp] theorem State.abort_tree (e : ErrorKind) (s : State) : (s.abort e).tree = s.tree := rfl
@[simp] theorem State.abort_heap (e : ErrorKind) (s : State) : (s.abort e).heap = s.heap := rfl
@[simp] theorem State.abort_code (e : ErrorKind) (s : State) : (s.abort e).code = s.code := rfl
@[simp] theorem State.abort_hdrStack (e : ErrorKind) (s : State) : (s.abort e).hdrStack = s.hdrStack := rfl
@[simp] theorem State.abort_hdrCount (e : ErrorKind) (s : State) : (s.abort e).hdrCount = s.hdrCount := rfl
@[simp] theorem State.abort_dstate (e : ErrorKind) (s : State) : (s.abort e).dstate = s.dstate := rfl
@[simp] theorem State.abort_dpath (e : ErrorKind) (s : State) : (s.abort e).dpath = s.dpath := rfl
@[simp] theorem State.abort_pend (e : ErrorKind) (s : State) : (s.abort e).pend = s.pend := rfl
@[simp] theorem State.abort_inBits (e : ErrorKind) (s : State) : (s.abort e).inBits = s.inBits := rfl
@[simp] theorem State.abort_inPos (e : ErrorKind) (s : State) : (s.abort e).inPos = s.inPos := rfl
@[simp] theorem State.abort_outBits (e : ErrorKind) (s : State) : (s.abort e).outBits = s.outBits := rfl
@[simp] theorem State.abort_portDraws (e : ErrorKind) (s : State) : (s.abort e).portDraws = s.portDraws := rfl
@[simp] theorem State.abort_hostMoves (e : ErrorKind) (s : State) : (s.abort e).hostMoves = s.hostMoves := rfl
@[simp] theorem State.abort_hostReplies (e : ErrorKind) (s : State) : (s.abort e).hostReplies = s.hostReplies := rfl
@[simp] theorem State.abort_freeDraws (e : ErrorKind) (s : State) : (s.abort e).freeDraws = s.freeDraws := rfl

/-! ### State.finish -/

@[simp] theorem State.finish_busy (s : State) : s.finish.busy = false := rfl
@[simp] theorem State.finish_err (s : State) : s.finish.err = s.err := rfl
@[simp] theorem State.finish_cmdDropped (s : State) : s.finish.cmdDropped = s.cmdDropped := rfl
@[simp] theorem State.finish_codesValid (s : State) : s.finish.codesValid = s.codesValid := rfl
@[simp] theorem State.finish_errCode (s : State) : s.finish.errCode = s.errCode := rfl
@[simp] theorem State.finish_lastOp (s : State) : s.finish.lastOp = s.lastOp := rfl
@[simp] theorem State.finish_magic (s : State) : s.finish.magic = s.magic := rfl
@[simp] theorem State.finish_result (s : State) : s.finish.result = s.result := rfl
@[simp] theorem State.finish_codeBits (s : State) : s.finish.codeBits = s.codeBits := rfl
@[simp] theorem State.finish_freq (s : State) : s.finish.freq = s.freq := rfl
@[simp] theorem State.finish_tree (s : State) : s.finish.tree = s.tree := rfl
@[simp] theorem State.finish_heap (s : State) : s.finish.heap = s.heap := rfl
@[simp] theorem State.finish_code (s : State) : s.finish.code = s.code := rfl
@[simp] theorem State.finish_hdrStack (s : State) : s.finish.hdrStack = s.hdrStack := rfl
@[simp] theorem State.finish_hdrCount (s : State) : s.finish.hdrCount = s.hdrCount := rfl
@[simp] theorem State.finish_dstate (s : State) : s.finish.dstate = s.dstate := rfl
@[simp] theorem State.finish_dpath (s : State) : s.finish.dpath = s.dpath := rfl
@[simp] theorem State.finish_pend (s : State) : s.finish.pend = s.pend := rfl
@[simp] theorem State.finish_inBits (s : State) : s.finish.inBits = s.inBits := rfl
@[simp] theorem State.finish_inPos (s : State) : s.finish.inPos = s.inPos := rfl
@[simp] theorem State.finish_outBits (s : State) : s.finish.outBits = s.outBits := rfl
@[simp] theorem State.finish_portDraws (s : State) : s.finish.portDraws = s.portDraws := rfl
@[simp] theorem State.finish_hostMoves (s : State) : s.finish.hostMoves = s.hostMoves := rfl
@[simp] theorem State.finish_hostReplies (s : State) : s.finish.hostReplies = s.hostReplies := rfl
@[simp] theorem State.finish_freeDraws (s : State) : s.finish.freeDraws = s.freeDraws := rfl

/-! ### State.clearError -/

@[simp] theorem State.clearError_busy (s : State) : s.clearError.busy = s.busy := rfl
@[simp] theorem State.clearError_err (s : State) : s.clearError.err = false := rfl
@[simp] theorem State.clearError_cmdDropped (s : State) : s.clearError.cmdDropped = false := rfl
@[simp] theorem State.clearError_codesValid (s : State) : s.clearError.codesValid = s.codesValid := rfl
@[simp] theorem State.clearError_errCode (s : State) : s.clearError.errCode = 0 := rfl
@[simp] theorem State.clearError_lastOp (s : State) : s.clearError.lastOp = s.lastOp := rfl
@[simp] theorem State.clearError_magic (s : State) : s.clearError.magic = s.magic := rfl
@[simp] theorem State.clearError_result (s : State) : s.clearError.result = s.result := rfl
@[simp] theorem State.clearError_codeBits (s : State) : s.clearError.codeBits = s.codeBits := rfl
@[simp] theorem State.clearError_freq (s : State) : s.clearError.freq = s.freq := rfl
@[simp] theorem State.clearError_tree (s : State) : s.clearError.tree = s.tree := rfl
@[simp] theorem State.clearError_heap (s : State) : s.clearError.heap = s.heap := rfl
@[simp] theorem State.clearError_code (s : State) : s.clearError.code = s.code := rfl
@[simp] theorem State.clearError_hdrStack (s : State) : s.clearError.hdrStack = s.hdrStack := rfl
@[simp] theorem State.clearError_hdrCount (s : State) : s.clearError.hdrCount = s.hdrCount := rfl
@[simp] theorem State.clearError_dstate (s : State) : s.clearError.dstate = s.dstate := rfl
@[simp] theorem State.clearError_dpath (s : State) : s.clearError.dpath = s.dpath := rfl
@[simp] theorem State.clearError_pend (s : State) : s.clearError.pend = s.pend := rfl
@[simp] theorem State.clearError_inBits (s : State) : s.clearError.inBits = s.inBits := rfl
@[simp] theorem State.clearError_inPos (s : State) : s.clearError.inPos = s.inPos := rfl
@[simp] theorem State.clearError_outBits (s : State) : s.clearError.outBits = s.outBits := rfl
@[simp] theorem State.clearError_portDraws (s : State) : s.clearError.portDraws = s.portDraws := rfl
@[simp] theorem State.clearError_hostMoves (s : State) : s.clearError.hostMoves = s.hostMoves := rfl
@[simp] theorem State.clearError_hostReplies (s : State) : s.clearError.hostReplies = s.hostReplies := rfl
@[simp] theorem State.clearError_freeDraws (s : State) : s.clearError.freeDraws = s.freeDraws := rfl

/-! ### State.resetEngine -/

@[simp] theorem State.resetEngine_busy (s : State) : s.resetEngine.busy = false := rfl
@[simp] theorem State.resetEngine_err (s : State) : s.resetEngine.err = false := rfl
@[simp] theorem State.resetEngine_cmdDropped (s : State) : s.resetEngine.cmdDropped = false := rfl
@[simp] theorem State.resetEngine_codesValid (s : State) : s.resetEngine.codesValid = false := rfl
@[simp] theorem State.resetEngine_errCode (s : State) : s.resetEngine.errCode = 0 := rfl
@[simp] theorem State.resetEngine_lastOp (s : State) : s.resetEngine.lastOp = 0 := rfl
@[simp] theorem State.resetEngine_magic (s : State) : s.resetEngine.magic = s.magic := rfl
@[simp] theorem State.resetEngine_result (s : State) : s.resetEngine.result = 0 := rfl
@[simp] theorem State.resetEngine_codeBits (s : State) : s.resetEngine.codeBits = 0 := rfl
@[simp] theorem State.resetEngine_freq (s : State) : s.resetEngine.freq = freqInitial := rfl
@[simp] theorem State.resetEngine_tree (s : State) : s.resetEngine.tree = none := rfl
@[simp] theorem State.resetEngine_heap (s : State) : s.resetEngine.heap = [] := rfl
@[simp] theorem State.resetEngine_code (s : State) : s.resetEngine.code = codeNone := rfl
@[simp] theorem State.resetEngine_hdrStack (s : State) : s.resetEngine.hdrStack = [] := rfl
@[simp] theorem State.resetEngine_hdrCount (s : State) : s.resetEngine.hdrCount = 0 := rfl
@[simp] theorem State.resetEngine_dstate (s : State) : s.resetEngine.dstate = .unarmed := rfl
@[simp] theorem State.resetEngine_dpath (s : State) : s.resetEngine.dpath = [] := rfl
@[simp] theorem State.resetEngine_pend (s : State) : s.resetEngine.pend = 0 := rfl
@[simp] theorem State.resetEngine_inBits (s : State) : s.resetEngine.inBits = s.inBits := rfl
@[simp] theorem State.resetEngine_inPos (s : State) : s.resetEngine.inPos = s.inPos := rfl
@[simp] theorem State.resetEngine_outBits (s : State) : s.resetEngine.outBits = s.outBits := rfl
@[simp] theorem State.resetEngine_portDraws (s : State) : s.resetEngine.portDraws = s.portDraws := rfl
@[simp] theorem State.resetEngine_hostMoves (s : State) : s.resetEngine.hostMoves = s.hostMoves := rfl
@[simp] theorem State.resetEngine_hostReplies (s : State) : s.resetEngine.hostReplies = s.hostReplies := rfl
@[simp] theorem State.resetEngine_freeDraws (s : State) : s.resetEngine.freeDraws = s.freeDraws := rfl

/-! ### State.installTree -/

@[simp] theorem State.installTree_busy (t : Tree) (s : State) : (s.installTree t).busy = s.busy := rfl
@[simp] theorem State.installTree_err (t : Tree) (s : State) : (s.installTree t).err = s.err := rfl
@[simp] theorem State.installTree_cmdDropped (t : Tree) (s : State) :
    (s.installTree t).cmdDropped = s.cmdDropped := rfl
@[simp] theorem State.installTree_codesValid (t : Tree) (s : State) :
    (s.installTree t).codesValid = s.codesValid := rfl
@[simp] theorem State.installTree_errCode (t : Tree) (s : State) : (s.installTree t).errCode = s.errCode := rfl
@[simp] theorem State.installTree_lastOp (t : Tree) (s : State) : (s.installTree t).lastOp = s.lastOp := rfl
@[simp] theorem State.installTree_magic (t : Tree) (s : State) : (s.installTree t).magic = s.magic := rfl
@[simp] theorem State.installTree_result (t : Tree) (s : State) : (s.installTree t).result = s.result := rfl
@[simp] theorem State.installTree_codeBits (t : Tree) (s : State) : (s.installTree t).codeBits = s.codeBits := rfl
@[simp] theorem State.installTree_freq (t : Tree) (s : State) : (s.installTree t).freq = s.freq := rfl
@[simp] theorem State.installTree_tree (t : Tree) (s : State) : (s.installTree t).tree = some t := rfl
@[simp] theorem State.installTree_heap (t : Tree) (s : State) : (s.installTree t).heap = s.heap := rfl
@[simp] theorem State.installTree_code (t : Tree) (s : State) : (s.installTree t).code = s.code := rfl
@[simp] theorem State.installTree_hdrStack (t : Tree) (s : State) : (s.installTree t).hdrStack = s.hdrStack := rfl
@[simp] theorem State.installTree_hdrCount (t : Tree) (s : State) : (s.installTree t).hdrCount = s.hdrCount := rfl
@[simp] theorem State.installTree_dstate (t : Tree) (s : State) : (s.installTree t).dstate = .atRoot := rfl
@[simp] theorem State.installTree_dpath (t : Tree) (s : State) : (s.installTree t).dpath = [] := rfl
@[simp] theorem State.installTree_pend (t : Tree) (s : State) : (s.installTree t).pend = s.pend := rfl
@[simp] theorem State.installTree_inBits (t : Tree) (s : State) : (s.installTree t).inBits = s.inBits := rfl
@[simp] theorem State.installTree_inPos (t : Tree) (s : State) : (s.installTree t).inPos = s.inPos := rfl
@[simp] theorem State.installTree_outBits (t : Tree) (s : State) : (s.installTree t).outBits = s.outBits := rfl
@[simp] theorem State.installTree_portDraws (t : Tree) (s : State) : (s.installTree t).portDraws = s.portDraws := rfl
@[simp] theorem State.installTree_hostMoves (t : Tree) (s : State) : (s.installTree t).hostMoves = s.hostMoves := rfl
@[simp] theorem State.installTree_hostReplies (t : Tree) (s : State) :
    (s.installTree t).hostReplies = s.hostReplies := rfl
@[simp] theorem State.installTree_freeDraws (t : Tree) (s : State) : (s.installTree t).freeDraws = s.freeDraws := rfl

/-! ### rewindInput -/

@[simp] theorem rewindInput_busy (s : State) : (rewindInput s).busy = s.busy := rfl
@[simp] theorem rewindInput_err (s : State) : (rewindInput s).err = s.err := rfl
@[simp] theorem rewindInput_cmdDropped (s : State) : (rewindInput s).cmdDropped = s.cmdDropped := rfl
@[simp] theorem rewindInput_codesValid (s : State) : (rewindInput s).codesValid = s.codesValid := rfl
@[simp] theorem rewindInput_errCode (s : State) : (rewindInput s).errCode = s.errCode := rfl
@[simp] theorem rewindInput_lastOp (s : State) : (rewindInput s).lastOp = s.lastOp := rfl
@[simp] theorem rewindInput_magic (s : State) : (rewindInput s).magic = s.magic := rfl
@[simp] theorem rewindInput_result (s : State) : (rewindInput s).result = s.result := rfl
@[simp] theorem rewindInput_codeBits (s : State) : (rewindInput s).codeBits = s.codeBits := rfl
@[simp] theorem rewindInput_freq (s : State) : (rewindInput s).freq = s.freq := rfl
@[simp] theorem rewindInput_tree (s : State) : (rewindInput s).tree = s.tree := rfl
@[simp] theorem rewindInput_heap (s : State) : (rewindInput s).heap = s.heap := rfl
@[simp] theorem rewindInput_code (s : State) : (rewindInput s).code = s.code := rfl
@[simp] theorem rewindInput_hdrStack (s : State) : (rewindInput s).hdrStack = s.hdrStack := rfl
@[simp] theorem rewindInput_hdrCount (s : State) : (rewindInput s).hdrCount = s.hdrCount := rfl
@[simp] theorem rewindInput_dstate (s : State) : (rewindInput s).dstate = s.dstate := rfl
@[simp] theorem rewindInput_dpath (s : State) : (rewindInput s).dpath = s.dpath := rfl
@[simp] theorem rewindInput_pend (s : State) : (rewindInput s).pend = s.pend := rfl
@[simp] theorem rewindInput_inBits (s : State) : (rewindInput s).inBits = s.inBits := rfl
@[simp] theorem rewindInput_inPos (s : State) : (rewindInput s).inPos = 0 := rfl
@[simp] theorem rewindInput_outBits (s : State) : (rewindInput s).outBits = s.outBits := rfl
@[simp] theorem rewindInput_portDraws (s : State) : (rewindInput s).portDraws = s.portDraws := rfl
@[simp] theorem rewindInput_hostMoves (s : State) : (rewindInput s).hostMoves = s.hostMoves := rfl
@[simp] theorem rewindInput_hostReplies (s : State) : (rewindInput s).hostReplies = s.hostReplies := rfl
@[simp] theorem rewindInput_freeDraws (s : State) : (rewindInput s).freeDraws = s.freeDraws := rfl

/-! ### countNode -/

@[simp] theorem countNode_busy (s : State) : (countNode s).busy = s.busy := rfl
@[simp] theorem countNode_err (s : State) : (countNode s).err = s.err := rfl
@[simp] theorem countNode_cmdDropped (s : State) : (countNode s).cmdDropped = s.cmdDropped := rfl
@[simp] theorem countNode_codesValid (s : State) : (countNode s).codesValid = s.codesValid := rfl
@[simp] theorem countNode_errCode (s : State) : (countNode s).errCode = s.errCode := rfl
@[simp] theorem countNode_lastOp (s : State) : (countNode s).lastOp = s.lastOp := rfl
@[simp] theorem countNode_magic (s : State) : (countNode s).magic = s.magic := rfl
@[simp] theorem countNode_result (s : State) : (countNode s).result = s.result := rfl
@[simp] theorem countNode_codeBits (s : State) : (countNode s).codeBits = s.codeBits := rfl
@[simp] theorem countNode_freq (s : State) : (countNode s).freq = s.freq := rfl
@[simp] theorem countNode_tree (s : State) : (countNode s).tree = s.tree := rfl
@[simp] theorem countNode_heap (s : State) : (countNode s).heap = s.heap := rfl
@[simp] theorem countNode_code (s : State) : (countNode s).code = s.code := rfl
@[simp] theorem countNode_hdrStack (s : State) : (countNode s).hdrStack = s.hdrStack := rfl
@[simp] theorem countNode_hdrCount (s : State) : (countNode s).hdrCount = s.hdrCount + 1 := rfl
@[simp] theorem countNode_dstate (s : State) : (countNode s).dstate = s.dstate := rfl
@[simp] theorem countNode_dpath (s : State) : (countNode s).dpath = s.dpath := rfl
@[simp] theorem countNode_pend (s : State) : (countNode s).pend = s.pend := rfl
@[simp] theorem countNode_inBits (s : State) : (countNode s).inBits = s.inBits := rfl
@[simp] theorem countNode_inPos (s : State) : (countNode s).inPos = s.inPos := rfl
@[simp] theorem countNode_outBits (s : State) : (countNode s).outBits = s.outBits := rfl
@[simp] theorem countNode_portDraws (s : State) : (countNode s).portDraws = s.portDraws := rfl
@[simp] theorem countNode_hostMoves (s : State) : (countNode s).hostMoves = s.hostMoves := rfl
@[simp] theorem countNode_hostReplies (s : State) : (countNode s).hostReplies = s.hostReplies := rfl
@[simp] theorem countNode_freeDraws (s : State) : (countNode s).freeDraws = s.freeDraws := rfl

/-! ### pushPending -/

@[simp] theorem pushPending_busy (s : State) : (pushPending s).busy = s.busy := rfl
@[simp] theorem pushPending_err (s : State) : (pushPending s).err = s.err := rfl
@[simp] theorem pushPending_cmdDropped (s : State) : (pushPending s).cmdDropped = s.cmdDropped := rfl
@[simp] theorem pushPending_codesValid (s : State) : (pushPending s).codesValid = s.codesValid := rfl
@[simp] theorem pushPending_errCode (s : State) : (pushPending s).errCode = s.errCode := rfl
@[simp] theorem pushPending_lastOp (s : State) : (pushPending s).lastOp = s.lastOp := rfl
@[simp] theorem pushPending_magic (s : State) : (pushPending s).magic = s.magic := rfl
@[simp] theorem pushPending_result (s : State) : (pushPending s).result = s.result := rfl
@[simp] theorem pushPending_codeBits (s : State) : (pushPending s).codeBits = s.codeBits := rfl
@[simp] theorem pushPending_freq (s : State) : (pushPending s).freq = s.freq := rfl
@[simp] theorem pushPending_tree (s : State) : (pushPending s).tree = s.tree := rfl
@[simp] theorem pushPending_heap (s : State) : (pushPending s).heap = s.heap := rfl
@[simp] theorem pushPending_code (s : State) : (pushPending s).code = s.code := rfl
@[simp] theorem pushPending_hdrStack (s : State) : (pushPending s).hdrStack = none :: s.hdrStack := rfl
@[simp] theorem pushPending_hdrCount (s : State) : (pushPending s).hdrCount = s.hdrCount := rfl
@[simp] theorem pushPending_dstate (s : State) : (pushPending s).dstate = s.dstate := rfl
@[simp] theorem pushPending_dpath (s : State) : (pushPending s).dpath = s.dpath := rfl
@[simp] theorem pushPending_pend (s : State) : (pushPending s).pend = s.pend := rfl
@[simp] theorem pushPending_inBits (s : State) : (pushPending s).inBits = s.inBits := rfl
@[simp] theorem pushPending_inPos (s : State) : (pushPending s).inPos = s.inPos := rfl
@[simp] theorem pushPending_outBits (s : State) : (pushPending s).outBits = s.outBits := rfl
@[simp] theorem pushPending_portDraws (s : State) : (pushPending s).portDraws = s.portDraws := rfl
@[simp] theorem pushPending_hostMoves (s : State) : (pushPending s).hostMoves = s.hostMoves := rfl
@[simp] theorem pushPending_hostReplies (s : State) : (pushPending s).hostReplies = s.hostReplies := rfl
@[simp] theorem pushPending_freeDraws (s : State) : (pushPending s).freeDraws = s.freeDraws := rfl

/-! ### setPendingLeft -/

@[simp] theorem setPendingLeft_busy (l : Tree) (s : State) : (setPendingLeft l s).busy = s.busy := rfl
@[simp] theorem setPendingLeft_err (l : Tree) (s : State) : (setPendingLeft l s).err = s.err := rfl
@[simp] theorem setPendingLeft_cmdDropped (l : Tree) (s : State) :
    (setPendingLeft l s).cmdDropped = s.cmdDropped := rfl
@[simp] theorem setPendingLeft_codesValid (l : Tree) (s : State) :
    (setPendingLeft l s).codesValid = s.codesValid := rfl
@[simp] theorem setPendingLeft_errCode (l : Tree) (s : State) : (setPendingLeft l s).errCode = s.errCode := rfl
@[simp] theorem setPendingLeft_lastOp (l : Tree) (s : State) : (setPendingLeft l s).lastOp = s.lastOp := rfl
@[simp] theorem setPendingLeft_magic (l : Tree) (s : State) : (setPendingLeft l s).magic = s.magic := rfl
@[simp] theorem setPendingLeft_result (l : Tree) (s : State) : (setPendingLeft l s).result = s.result := rfl
@[simp] theorem setPendingLeft_codeBits (l : Tree) (s : State) : (setPendingLeft l s).codeBits = s.codeBits := rfl
@[simp] theorem setPendingLeft_freq (l : Tree) (s : State) : (setPendingLeft l s).freq = s.freq := rfl
@[simp] theorem setPendingLeft_tree (l : Tree) (s : State) : (setPendingLeft l s).tree = s.tree := rfl
@[simp] theorem setPendingLeft_heap (l : Tree) (s : State) : (setPendingLeft l s).heap = s.heap := rfl
@[simp] theorem setPendingLeft_code (l : Tree) (s : State) : (setPendingLeft l s).code = s.code := rfl
@[simp] theorem setPendingLeft_hdrStack (l : Tree) (s : State) :
    (setPendingLeft l s).hdrStack = some l :: s.hdrStack.drop 1 := rfl
@[simp] theorem setPendingLeft_hdrCount (l : Tree) (s : State) : (setPendingLeft l s).hdrCount = s.hdrCount := rfl
@[simp] theorem setPendingLeft_dstate (l : Tree) (s : State) : (setPendingLeft l s).dstate = s.dstate := rfl
@[simp] theorem setPendingLeft_dpath (l : Tree) (s : State) : (setPendingLeft l s).dpath = s.dpath := rfl
@[simp] theorem setPendingLeft_pend (l : Tree) (s : State) : (setPendingLeft l s).pend = s.pend := rfl
@[simp] theorem setPendingLeft_inBits (l : Tree) (s : State) : (setPendingLeft l s).inBits = s.inBits := rfl
@[simp] theorem setPendingLeft_inPos (l : Tree) (s : State) : (setPendingLeft l s).inPos = s.inPos := rfl
@[simp] theorem setPendingLeft_outBits (l : Tree) (s : State) : (setPendingLeft l s).outBits = s.outBits := rfl
@[simp] theorem setPendingLeft_portDraws (l : Tree) (s : State) : (setPendingLeft l s).portDraws = s.portDraws := rfl
@[simp] theorem setPendingLeft_hostMoves (l : Tree) (s : State) : (setPendingLeft l s).hostMoves = s.hostMoves := rfl
@[simp] theorem setPendingLeft_hostReplies (l : Tree) (s : State) :
    (setPendingLeft l s).hostReplies = s.hostReplies := rfl
@[simp] theorem setPendingLeft_freeDraws (l : Tree) (s : State) : (setPendingLeft l s).freeDraws = s.freeDraws := rfl

/-! ### popPending -/

@[simp] theorem popPending_busy (s : State) : (popPending s).busy = s.busy := rfl
@[simp] theorem popPending_err (s : State) : (popPending s).err = s.err := rfl
@[simp] theorem popPending_cmdDropped (s : State) : (popPending s).cmdDropped = s.cmdDropped := rfl
@[simp] theorem popPending_codesValid (s : State) : (popPending s).codesValid = s.codesValid := rfl
@[simp] theorem popPending_errCode (s : State) : (popPending s).errCode = s.errCode := rfl
@[simp] theorem popPending_lastOp (s : State) : (popPending s).lastOp = s.lastOp := rfl
@[simp] theorem popPending_magic (s : State) : (popPending s).magic = s.magic := rfl
@[simp] theorem popPending_result (s : State) : (popPending s).result = s.result := rfl
@[simp] theorem popPending_codeBits (s : State) : (popPending s).codeBits = s.codeBits := rfl
@[simp] theorem popPending_freq (s : State) : (popPending s).freq = s.freq := rfl
@[simp] theorem popPending_tree (s : State) : (popPending s).tree = s.tree := rfl
@[simp] theorem popPending_heap (s : State) : (popPending s).heap = s.heap := rfl
@[simp] theorem popPending_code (s : State) : (popPending s).code = s.code := rfl
@[simp] theorem popPending_hdrStack (s : State) : (popPending s).hdrStack = s.hdrStack.drop 1 := rfl
@[simp] theorem popPending_hdrCount (s : State) : (popPending s).hdrCount = s.hdrCount := rfl
@[simp] theorem popPending_dstate (s : State) : (popPending s).dstate = s.dstate := rfl
@[simp] theorem popPending_dpath (s : State) : (popPending s).dpath = s.dpath := rfl
@[simp] theorem popPending_pend (s : State) : (popPending s).pend = s.pend := rfl
@[simp] theorem popPending_inBits (s : State) : (popPending s).inBits = s.inBits := rfl
@[simp] theorem popPending_inPos (s : State) : (popPending s).inPos = s.inPos := rfl
@[simp] theorem popPending_outBits (s : State) : (popPending s).outBits = s.outBits := rfl
@[simp] theorem popPending_portDraws (s : State) : (popPending s).portDraws = s.portDraws := rfl
@[simp] theorem popPending_hostMoves (s : State) : (popPending s).hostMoves = s.hostMoves := rfl
@[simp] theorem popPending_hostReplies (s : State) : (popPending s).hostReplies = s.hostReplies := rfl
@[simp] theorem popPending_freeDraws (s : State) : (popPending s).freeDraws = s.freeDraws := rfl

/-! ### startHeader -/

@[simp] theorem startHeader_busy (s : State) : (startHeader s).busy = s.busy := rfl
@[simp] theorem startHeader_err (s : State) : (startHeader s).err = s.err := rfl
@[simp] theorem startHeader_cmdDropped (s : State) : (startHeader s).cmdDropped = s.cmdDropped := rfl
@[simp] theorem startHeader_codesValid (s : State) : (startHeader s).codesValid = false := rfl
@[simp] theorem startHeader_errCode (s : State) : (startHeader s).errCode = s.errCode := rfl
@[simp] theorem startHeader_lastOp (s : State) : (startHeader s).lastOp = s.lastOp := rfl
@[simp] theorem startHeader_magic (s : State) : (startHeader s).magic = s.magic := rfl
@[simp] theorem startHeader_result (s : State) : (startHeader s).result = s.result := rfl
@[simp] theorem startHeader_codeBits (s : State) : (startHeader s).codeBits = s.codeBits := rfl
@[simp] theorem startHeader_freq (s : State) : (startHeader s).freq = s.freq := rfl
@[simp] theorem startHeader_tree (s : State) : (startHeader s).tree = none := rfl
@[simp] theorem startHeader_heap (s : State) : (startHeader s).heap = s.heap := rfl
@[simp] theorem startHeader_code (s : State) : (startHeader s).code = s.code := rfl
@[simp] theorem startHeader_hdrStack (s : State) : (startHeader s).hdrStack = [] := rfl
@[simp] theorem startHeader_hdrCount (s : State) : (startHeader s).hdrCount = 0 := rfl
@[simp] theorem startHeader_dstate (s : State) : (startHeader s).dstate = .unarmed := rfl
@[simp] theorem startHeader_dpath (s : State) : (startHeader s).dpath = [] := rfl
@[simp] theorem startHeader_pend (s : State) : (startHeader s).pend = s.pend := rfl
@[simp] theorem startHeader_inBits (s : State) : (startHeader s).inBits = s.inBits := rfl
@[simp] theorem startHeader_inPos (s : State) : (startHeader s).inPos = s.inPos := rfl
@[simp] theorem startHeader_outBits (s : State) : (startHeader s).outBits = s.outBits := rfl
@[simp] theorem startHeader_portDraws (s : State) : (startHeader s).portDraws = s.portDraws := rfl
@[simp] theorem startHeader_hostMoves (s : State) : (startHeader s).hostMoves = s.hostMoves := rfl
@[simp] theorem startHeader_hostReplies (s : State) : (startHeader s).hostReplies = s.hostReplies := rfl
@[simp] theorem startHeader_freeDraws (s : State) : (startHeader s).freeDraws = s.freeDraws := rfl

/-! ### addReply -/

@[simp] theorem addReply_busy (r : HostReply) (s : State) : (addReply r s).busy = s.busy := rfl
@[simp] theorem addReply_err (r : HostReply) (s : State) : (addReply r s).err = s.err := rfl
@[simp] theorem addReply_cmdDropped (r : HostReply) (s : State) : (addReply r s).cmdDropped = s.cmdDropped := rfl
@[simp] theorem addReply_codesValid (r : HostReply) (s : State) : (addReply r s).codesValid = s.codesValid := rfl
@[simp] theorem addReply_errCode (r : HostReply) (s : State) : (addReply r s).errCode = s.errCode := rfl
@[simp] theorem addReply_lastOp (r : HostReply) (s : State) : (addReply r s).lastOp = s.lastOp := rfl
@[simp] theorem addReply_magic (r : HostReply) (s : State) : (addReply r s).magic = s.magic := rfl
@[simp] theorem addReply_result (r : HostReply) (s : State) : (addReply r s).result = s.result := rfl
@[simp] theorem addReply_codeBits (r : HostReply) (s : State) : (addReply r s).codeBits = s.codeBits := rfl
@[simp] theorem addReply_freq (r : HostReply) (s : State) : (addReply r s).freq = s.freq := rfl
@[simp] theorem addReply_tree (r : HostReply) (s : State) : (addReply r s).tree = s.tree := rfl
@[simp] theorem addReply_heap (r : HostReply) (s : State) : (addReply r s).heap = s.heap := rfl
@[simp] theorem addReply_code (r : HostReply) (s : State) : (addReply r s).code = s.code := rfl
@[simp] theorem addReply_hdrStack (r : HostReply) (s : State) : (addReply r s).hdrStack = s.hdrStack := rfl
@[simp] theorem addReply_hdrCount (r : HostReply) (s : State) : (addReply r s).hdrCount = s.hdrCount := rfl
@[simp] theorem addReply_dstate (r : HostReply) (s : State) : (addReply r s).dstate = s.dstate := rfl
@[simp] theorem addReply_dpath (r : HostReply) (s : State) : (addReply r s).dpath = s.dpath := rfl
@[simp] theorem addReply_pend (r : HostReply) (s : State) : (addReply r s).pend = s.pend := rfl
@[simp] theorem addReply_inBits (r : HostReply) (s : State) : (addReply r s).inBits = s.inBits := rfl
@[simp] theorem addReply_inPos (r : HostReply) (s : State) : (addReply r s).inPos = s.inPos := rfl
@[simp] theorem addReply_outBits (r : HostReply) (s : State) : (addReply r s).outBits = s.outBits := rfl
@[simp] theorem addReply_portDraws (r : HostReply) (s : State) : (addReply r s).portDraws = s.portDraws := rfl
@[simp] theorem addReply_hostMoves (r : HostReply) (s : State) : (addReply r s).hostMoves = s.hostMoves := rfl
@[simp] theorem addReply_hostReplies (r : HostReply) (s : State) :
    (addReply r s).hostReplies = s.hostReplies ++ [r] := rfl
@[simp] theorem addReply_freeDraws (r : HostReply) (s : State) : (addReply r s).freeDraws = s.freeDraws := rfl

end Sys2Proof.Machine
end

