-- ==== Sys2Proof/Laws/Ops.lean ====
section
/-! SUPPORT. For each shared operation, one lemma that says everything it can do, to be cited where the operation
would otherwise be unfolded; and the shape of `exec`: every command is the end of its list of sub-operations. -/

namespace Sys2Proof.Machine

/-! ### Runs -/

section Runs

variable {α β γ : Type}

@[simp] theorem Run.andThen_done (a : α) (s : State) (f : α → State → Run β) :
    (Run.done a s).andThen f = f a s := rfl

@[simp] theorem Run.andThen_raised (e : ErrorKind) (s : State) (f : α → State → Run β) :
    (Run.raised e s : Run α).andThen f = .raised e s := rfl

@[simp] theorem Run.andThen_stuck (x : Fault) (f : α → State → Run β) :
    (Run.stuck x : Run α).andThen f = .stuck x := rfl

theorem Run.andThen_assoc (r : Run α) (f : α → State → Run β) (g : β → State → Run γ) :
    (r.andThen f).andThen g = r.andThen fun a s => (f a s).andThen g := by
  cases r <;> rfl

theorem Run.andThen_eq_done {r : Run α} {f : α → State → Run β} {b : β} {t : State} :
    r.andThen f = .done b t ↔ ∃ a u, r = .done a u ∧ f a u = .done b t := by
  cases r <;> simp

theorem Run.andThen_eq_raised {r : Run α} {f : α → State → Run β} {e : ErrorKind} {t : State} :
    r.andThen f = .raised e t ↔ r = .raised e t ∨ ∃ a u, r = .done a u ∧ f a u = .raised e t := by
  cases r <;> simp

theorem Run.andThen_eq_stuck {r : Run α} {f : α → State → Run β} {x : Fault} :
    r.andThen f = .stuck x ↔ r = .stuck x ∨ ∃ a u, r = .done a u ∧ f a u = .stuck x := by
  cases r <;> simp

end Runs

@[simp] theorem endCommand_done (a : Unit) (s : State) : endCommand (.done a s) = .next s.finish := rfl

@[simp] theorem endCommand_raised (e : ErrorKind) (s : State) : endCommand (.raised e s) = .next (s.abort e) := rfl

@[simp] theorem endCommand_stuck (x : Fault) : endCommand (.stuck x) = .fault x := rfl

/-- How a command reaches a next state: by its normal end (R102) or by its abort (R103). -/
theorem endCommand_eq_next {r : Run Unit} {t : State} :
    endCommand r = .next t ↔ (∃ u, r = .done () u ∧ t = u.finish) ∨ ∃ e u, r = .raised e u ∧ t = u.abort e := by
  cases r <;> simp [eq_comm]

/-- No command is refused by the operations its rule is made of. -/
theorem endCommand_ne_refused (r : Run Unit) (x : Refusal) : endCommand r ≠ .refused x := by
  cases r <;> simp

@[simp] theorem runSteps_nil (s : State) : runSteps [] s = .done () s := rfl

@[simp] theorem runSteps_cons (f : State → Run Unit) (fs : List (State → Run Unit)) (s : State) :
    runSteps (f :: fs) s = (f s).andThen fun _ t => runSteps fs t := rfl

theorem runSteps_append (fs gs : List (State → Run Unit)) (s : State) :
    runSteps (fs ++ gs) s = (runSteps fs s).andThen fun _ t => runSteps gs t := by
  induction fs generalizing s with
  | nil => rfl
  | cons f fs ih => simp [ih, Run.andThen_assoc]

theorem runSteps_singleton (f : State → Run Unit) (s : State) : runSteps [f] s = f s := by
  cases h : f s <;> simp [h]

@[simp] theorem repeatWhile_zero (f : State → Run Bool) (s : State) : repeatWhile 0 f s = .stuck .nonterminating := rfl

theorem repeatWhile_succ (n : Nat) (f : State → Run Bool) (s : State) :
    repeatWhile (n + 1) f s =
      (f s).andThen fun again t => if again then repeatWhile n f t else .done () t := rfl

/-- A property that every turn keeps, at its end and where it raises, holds where the loop ends. -/
theorem repeatWhile_invariant {P : State → Prop} {f : State → Run Bool}
    (hd : ∀ s b t, P s → f s = .done b t → P t) (hr : ∀ s e t, P s → f s = .raised e t → P t) (n : Nat) {s : State}
    (hs : P s) :
    (∀ t, repeatWhile n f s = .done () t → P t) ∧ ∀ e t, repeatWhile n f s = .raised e t → P t := by
  induction n generalizing s with
  | zero => simp
  | succ n ih =>
    rw [repeatWhile_succ]
    cases h : f s with
    | done b t =>
      cases b with
      | true => simpa using ih (hd s true t hs h)
      | false => simpa using hd s false t hs h
    | raised e t => simpa using hr s e t hs h
    | stuck x => simp

/-! ### Port operations -/

/-- A draw takes the head of the environment's draws; past their end there is no failure (R82). -/
theorem drawPort_eq (s : State) :
    drawPort s = (s.portDraws.head?.getD false, { s with portDraws := s.portDraws.tail }) := by
  cases s with
  | mk busy err cmdDropped codesValid errCode lastOp magic result codeBits freq tree heap code hdrStack hdrCount dstate
      dpath pend inBits inPos outBits portDraws hostMoves hostReplies freeDraws =>
    cases portDraws <;> rfl

/-- Under the named premise of R82 the draw is no failure, and the premise holds after it. -/
theorem drawPort_of_noPortFailure {s : State} (h : ∀ b ∈ s.portDraws, b = false) :
    drawPort s = (false, { s with portDraws := s.portDraws.tail }) ∧ ∀ b ∈ s.portDraws.tail, b = false := by
  refine ⟨?_, fun b hb => h b (List.mem_of_mem_tail hb)⟩
  rw [drawPort_eq]
  cases hp : s.portDraws with
  | nil => rfl
  | cons b bs => simp [h b (by simp [hp])]

/-- Everything a read whose end of data the caller sees can do (R61, R106). -/
theorem readOrBreak_cases (n : Nat) (s : State) :
    (readOrBreak n s = .raised .ioError { s with portDraws := s.portDraws.tail } ∧ s.portDraws.head? = some true) ∨
    (readOrBreak n s = .done none { s with portDraws := s.portDraws.tail } ∧ s.portDraws.head? ≠ some true ∧
      s.inBits.length < s.inPos + n) ∨
    (readOrBreak n s = .done (some (BitVec.ofNat n (num ((s.inBits.drop s.inPos).take n))))
        { s with portDraws := s.portDraws.tail, inPos := s.inPos + n } ∧ s.portDraws.head? ≠ some true ∧
      s.inPos + n ≤ s.inBits.length) := by
  have hd : ∀ o : Option Bool, (o.getD false = true ∧ o = some true) ∨ (o.getD false = false ∧ o ≠ some true) := by
    decide
  obtain ⟨h, h'⟩ | ⟨h, h'⟩ := hd s.portDraws.head?
  · exact .inl ⟨by simp [readOrBreak, portRead, drawPort_eq, h], h'⟩
  · by_cases hn : s.inBits.length < s.inPos + n
    · exact .inr (.inl ⟨by simp [readOrBreak, portRead, drawPort_eq, h, hn], h', hn⟩)
    · exact .inr (.inr ⟨by simp [readOrBreak, portRead, drawPort_eq, h, hn], h', by omega⟩)

/-- Everything a read that raises `e` at the end of data can do (R61, R106). -/
theorem readOrRaise_cases (n : Nat) (e : ErrorKind) (s : State) :
    (readOrRaise n e s = .raised .ioError { s with portDraws := s.portDraws.tail } ∧ s.portDraws.head? = some true) ∨
    (readOrRaise n e s = .raised e { s with portDraws := s.portDraws.tail } ∧ s.portDraws.head? ≠ some true ∧
      s.inBits.length < s.inPos + n) ∨
    (readOrRaise n e s = .done (BitVec.ofNat n (num ((s.inBits.drop s.inPos).take n)))
        { s with portDraws := s.portDraws.tail, inPos := s.inPos + n } ∧ s.portDraws.head? ≠ some true ∧
      s.inPos + n ≤ s.inBits.length) := by
  obtain ⟨h, h'⟩ | ⟨h, h'⟩ | ⟨h, h'⟩ := readOrBreak_cases n s
  · exact .inl ⟨by simp [readOrRaise, h], h'⟩
  · exact .inr (.inl ⟨by simp [readOrRaise, h], h'⟩)
  · exact .inr (.inr ⟨by simp [readOrRaise, h], h'⟩)

/-- Everything a write of a field can do (R62). -/
theorem writeField_cases {n : Nat} (v : BitVec n) (s : State) :
    (writeField v s = .raised .ioError { s with portDraws := s.portDraws.tail } ∧ s.portDraws.head? = some true) ∨
    (writeField v s = .done () { s with portDraws := s.portDraws.tail, outBits := s.outBits ++ bitsOf v } ∧
      s.portDraws.head? ≠ some true) := by
  have hd : ∀ o : Option Bool, (o.getD false = true ∧ o = some true) ∨ (o.getD false = false ∧ o ≠ some true) := by
    decide
  obtain ⟨h, h'⟩ | ⟨h, h'⟩ := hd s.portDraws.head?
  · exact .inl ⟨by simp [writeField, drawPort_eq, h], h'⟩
  · exact .inr ⟨by simp [writeField, drawPort_eq, h], h'⟩

/-- Everything a flush can do (R65). -/
theorem flushOutput_cases (s : State) :
    (flushOutput s = .raised .ioError { s with portDraws := s.portDraws.tail } ∧ s.portDraws.head? = some true) ∨
    (flushOutput s = .done () { s with portDraws := s.portDraws.tail, outBits := padToByte s.outBits } ∧
      s.portDraws.head? ≠ some true) := by
  have hd : ∀ o : Option Bool, (o.getD false = true ∧ o = some true) ∨ (o.getD false = false ∧ o ≠ some true) := by
    decide
  obtain ⟨h, h'⟩ | ⟨h, h'⟩ := hd s.portDraws.head?
  · exact .inl ⟨by simp [flushOutput, drawPort_eq, h], h'⟩
  · exact .inr ⟨by simp [flushOutput, drawPort_eq, h], h'⟩

theorem bitsOf_ofBool (b : Bool) : bitsOf (BitVec.ofBool b) = [b] := by cases b <;> decide

/-- Everything a write of a code can do, whatever the ports answer (R63): all its bits, or the first `j` of them. -/
theorem writeBits_cases (c : Bits) (s : State) :
    writeBits c s = .done () { s with portDraws := s.portDraws.drop c.length, outBits := s.outBits ++ c } ∨
    ∃ j, j < c.length ∧
      writeBits c s =
        .raised .ioError { s with portDraws := s.portDraws.drop (j + 1), outBits := s.outBits ++ c.take j } := by
  induction c generalizing s with
  | nil => exact .inl (by simp [writeBits])
  | cons b c ih =>
    obtain ⟨h, -⟩ | ⟨h, -⟩ := writeField_cases (BitVec.ofBool b) s
    · exact .inr ⟨0, by simp, by simp [writeBits, h]⟩
    · rw [bitsOf_ofBool] at h
      obtain hc | ⟨j, hj, hc⟩ := ih { s with portDraws := s.portDraws.tail, outBits := s.outBits ++ [b] }
      · exact .inl (by simp [writeBits, h, hc])
      · exact .inr ⟨j + 1, by simpa using hj, by simp [writeBits, h, hc]⟩

/-! ### Preconditions and tables -/

/-- Everything `require_tree` can do (R107). -/
theorem requireTree_cases (s : State) :
    (requireTree s = .raised .noTree s ∧ s.tree = none) ∨ ∃ t, requireTree s = .done t s ∧ s.tree = some t := by
  cases h : s.tree <;> simp [requireTree, h]

/-- Everything `require_codes` can do (R107). -/
theorem requireCodes_cases (s : State) :
    (requireCodes s = .raised .noCodes s ∧ s.codesValid = false) ∨ requireCodes s = .done () s ∧ s.codesValid = true := by
  cases h : s.codesValid <;> simp [requireCodes, h]

/-- The 9-bit field of a symbol reads back as that symbol (R89, R203). -/
@[simp] theorem symbolOf_symbolField (x : Symbol) : symbolOf (symbolField x) = some x := by
  have hx : x.val % 512 = x.val := by omega
  simp [symbolOf, symbolField, hx, x.isLt]

@[simp] theorem requireSymbol_symbolField (x : Symbol) (s : State) :
    requireSymbol (symbolField x) s = .done x s := by
  simp [requireSymbol]

/-- Outside 0..256 the operand is refused (R94). -/
theorem requireSymbol_of_gt {v : BitVec 9} (h : 256 < v.toNat) (s : State) :
    requireSymbol v s = .raised .illegalCommand s := by
  simp [requireSymbol, symbolOf, show ¬ v.toNat < 257 by omega]

/-- Everything counting one byte can do (R131, R134). -/
theorem countByte_cases (b : Byte) (s : State) :
    (countByte b s = .raised .countOverflow s ∧ s.count (byteSymbol b) = Config.countMax) ∨
    (countByte b s =
      .done () { s with freq := s.freq.set (byteSymbol b).val (s.count (byteSymbol b) + 1) } ∧
      s.count (byteSymbol b) ≠ Config.countMax) := by
  by_cases h : s.count (byteSymbol b) = Config.countMax <;> simp [countByte, h]

/-- Everything emitting one symbol can do before its bits are written (R216, R217). -/
theorem emitSymbol_cases (x : Symbol) (s : State) :
    (emitSymbol x s = .raised .noCode s ∧ s.codeFor x = none) ∨
    ∃ c, emitSymbol x s = writeBits c s ∧ s.codeFor x = some c := by
  cases h : s.codeFor x <;> simp [emitSymbol, h]

/-! ### Commands -/

/-- Every command is the end of its list of sub-operations (R101 to R104). -/
theorem exec_eq_endCommand (i : Instr) (s : State) : exec i s = endCommand (runSteps (commandSteps i) s) := by
  cases i <;> simp only [commandSteps, runSteps_singleton] <;> rfl

/-- No command is refused. -/
theorem exec_ne_refused (i : Instr) (s : State) (x : Refusal) : exec i s ≠ .refused x := by
  rw [exec_eq_endCommand]
  exact endCommand_ne_refused _ x

end Sys2Proof.Machine
end

