-- ==== Sys2Proof/Laws/PerInstr.lean ====
section
/-! SUPPORT. The family `EncodedFields`: what the fields of each command's word are (R88, R92, R95). -/

namespace Sys2Proof.Laws.EncodedFields

/-- The four fields of the word of a command hold its opcode, one of the 24 assigned, its operand, its window and
zero. -/
def Statement (i : Instr) : Prop :=
  opcodeField (encode i) = opcodeOf i ∧ opcodeOf i ∈ Machine.assignedOpcodes ∧ symField (encode i) = symOperand i ∧
    wordField (encode i) = wordOperand i ∧ rsvField (encode i) = 0

/-- The fields of a word made of four fields. -/
theorem fields_append (k : BitVec 3) (s : BitVec 9) (op : BitVec 8) :
    opcodeField ((0 : BitVec 12) ++ k ++ s ++ op) = op ∧ symField ((0 : BitVec 12) ++ k ++ s ++ op) = s ∧
      wordField ((0 : BitVec 12) ++ k ++ s ++ op) = k ∧ rsvField ((0 : BitVec 12) ++ k ++ s ++ op) = 0 := by
  change BitVec.extractLsb' 0 8 ((0 : BitVec 12) ++ k ++ s ++ op) = op ∧
    BitVec.extractLsb' 8 9 ((0 : BitVec 12) ++ k ++ s ++ op) = s ∧
    BitVec.extractLsb' 17 3 ((0 : BitVec 12) ++ k ++ s ++ op) = k ∧
    BitVec.extractLsb' 20 12 ((0 : BitVec 12) ++ k ++ s ++ op) = 0
  refine ⟨?_, ?_, ?_, ?_⟩ <;> refine BitVec.eq_of_getLsbD_eq fun i hi => ?_
  · simp only [BitVec.getLsbD_extractLsb', BitVec.getLsbD_append]
    simp [hi]
  · simp only [BitVec.getLsbD_extractLsb', BitVec.getLsbD_append]
    simp [hi]
  · simp only [BitVec.getLsbD_extractLsb', BitVec.getLsbD_append]
    simp [hi, show ¬ 17 + i < 8 by omega, show ¬ 17 + i - 8 < 9 by omega, show 17 + i - 8 - 9 = i by omega]
  · simp only [BitVec.getLsbD_extractLsb', BitVec.getLsbD_append]
    simp [hi, show ¬ 20 + i < 8 by omega, show ¬ 20 + i - 8 < 9 by omega, show ¬ 20 + i - 8 - 9 < 3 by omega]

/-- The opcodes of the map (R92). -/
theorem opcodeOf_mem (i : Instr) : opcodeOf i ∈ Machine.assignedOpcodes := by
  cases i <;> simp [opcodeOf, Machine.assignedOpcodes]

/-- Every command's word is made of four fields. -/
theorem statement_of (i : Instr) : Statement i :=
  have h := fields_append (wordOperand i) (symOperand i) (opcodeOf i)
  ⟨h.1, opcodeOf_mem i, h.2⟩

theorem nop : Statement .nop := statement_of _
theorem sreset : Statement .sreset := statement_of _
theorem clrerr : Statement .clrerr := statement_of _
theorem freqInit : Statement .freqInit := statement_of _
theorem freqAdd (b : Byte) : Statement (.freqAdd b) := statement_of _
theorem freqScan : Statement .freqScan := statement_of _
theorem freqRead (x : BitVec 9) : Statement (.freqRead x) := statement_of _
theorem treeBuild : Statement .treeBuild := statement_of _
theorem codeDerive : Statement .codeDerive := statement_of _
theorem codeRead (x : BitVec 9) (k : BitVec 3) : Statement (.codeRead x k) := statement_of _
theorem magicWrite : Statement .magicWrite := statement_of _
theorem hdrWrite : Statement .hdrWrite := statement_of _
theorem magicRead : Statement .magicRead := statement_of _
theorem hdrRead : Statement .hdrRead := statement_of _
theorem encSym (x : BitVec 9) : Statement (.encSym x) := statement_of _
theorem encPass : Statement .encPass := statement_of _
theorem decRestart : Statement .decRestart := statement_of _
theorem decBit : Statement .decBit := statement_of _
theorem decSym : Statement .decSym := statement_of _
theorem decPass : Statement .decPass := statement_of _
theorem inReset : Statement .inReset := statement_of _
theorem outFlush : Statement .outFlush := statement_of _
theorem compress : Statement .compress := statement_of _
theorem decompress : Statement .decompress := statement_of _

end Sys2Proof.Laws.EncodedFields
end

