-- ==== Sys2Proof/Laws/Step.lean ====
section
/-! SUPPORT. Everything a step can do: the engine's turn and each move of the host, as one case analysis each, to be
cited where `step` would otherwise be unfolded. -/

namespace Sys2Proof.Machine

variable {s t : State}

/-- The engine's turn (R101, R288). -/
theorem engineStep_cases (h : engineStep s = .next t) :
    (s.busy = false ∧ t = s) ∨
    (∃ i, s.busy = true ∧ decodeWord s.pend = .command i ∧ exec i s = .next t) ∨
    (∃ why, s.busy = true ∧ decodeWord s.pend = .illegal why ∧ t = s.abort .illegalCommand) := by
  unfold engineStep at h
  split at h
  · rename_i hb
    split at h
    · exact .inr (.inl ⟨_, hb, ‹_›, h⟩)
    · exact .inr (.inr ⟨_, hb, ‹_›, by injection h with h; exact h.symm⟩)
  · rename_i hb
    exact .inl ⟨by simpa using hb, by injection h with h; exact h.symm⟩

/-- The acceptance of a command word (R100): dropped, or accepted. -/
theorem offerCommand_cases (w : Word) (s : State) :
    (offerCommand w s = { s with cmdDropped := true } ∧ (s.busy = true ∨ s.err = true)) ∨
    (offerCommand w s = { s with pend := w, lastOp := w.extractLsb' 0 8, busy := true } ∧ s.busy = false ∧
      (s.err = true → passesInError w = true)) := by
  cases hb : s.busy <;> cases he : s.err <;> cases hp : passesInError w <;> simp [offerCommand, hb, he, hp]

/-- A host read adds one reply, and counts a free value where it draws one (R49, R72). -/
theorem hostRead_cases {offset : BitVec 8} {width : Nat} (h : hostRead offset width s = .next t) :
    ∃ r n, t = { s with hostReplies := s.hostReplies ++ [r], freeDraws := n } := by
  unfold hostRead at h
  split at h
  · split at h <;> injection h with h <;> subst h
    · exact ⟨_, _, rfl⟩
    · exact ⟨_, s.freeDraws, rfl⟩
  · cases h

/-- A host write offers a command at CMD and is ignored elsewhere (R72). -/
theorem hostWrite_cases {offset : BitVec 8} {width : Nat} {w : Word} (h : hostWrite offset width w s = .next t) :
    (offset = offsetCmd ∧ t = offerCommand w s) ∨ (offset ≠ offsetCmd ∧ t = s) := by
  unfold hostWrite at h
  split at h
  · split at h <;> injection h with h <;> subst h
    · exact .inl ⟨‹_›, rfl⟩
    · exact .inr ⟨‹_›, rfl⟩
  · cases h

@[simp] theorem cutPorts_portDraws_length (k : Nat) (s : State) : (cutPorts k s).portDraws.length = k + 1 := by
  simp [cutPorts]

/-- Where a command abandoned by reset stands (R290): past sub-operations that raised, past whole ones and no more, or
inside the next one. -/
theorem abandonedAt_cases (steps : List (State → Run Unit)) (subOps portOps : Nat) (s : State) :
    (∃ x, runSteps (steps.take subOps) s = .stuck x ∧ abandonedAt steps subOps portOps s = s) ∨
    (∃ e t, runSteps (steps.take subOps) s = .raised e t ∧ abandonedAt steps subOps portOps s = t) ∨
    (∃ t, runSteps (steps.take subOps) s = .done () t ∧ (portOps = 0 ∨ steps[subOps]? = none) ∧
      abandonedAt steps subOps portOps s = t) ∨
    (∃ t k f u, runSteps (steps.take subOps) s = .done () t ∧ portOps = k + 1 ∧ steps[subOps]? = some f ∧
      u = stoppedAt (cutPorts k t) (f (cutPorts k t)) ∧
      abandonedAt steps subOps portOps s = { u with portDraws := drawsAfterCut k t u }) := by
  cases h : runSteps (steps.take subOps) s with
  | stuck x => exact .inl ⟨x, rfl, by simp [abandonedAt, h]⟩
  | raised e t => exact .inr (.inl ⟨e, t, rfl, by simp [abandonedAt, h]⟩)
  | done a t =>
    cases portOps with
    | zero => exact .inr (.inr (.inl ⟨t, rfl, .inl rfl, by simp [abandonedAt, h]⟩))
    | succ k =>
      cases hf : steps[subOps]? with
      | none => exact .inr (.inr (.inl ⟨t, rfl, .inr rfl, by simp [abandonedAt, h, hf]⟩))
      | some f => exact .inr (.inr (.inr ⟨t, k, f, _, rfl, rfl, rfl, rfl, by simp [abandonedAt, h, hf]⟩))

/-- The reset input answers a reset state, whatever it abandons (R290). -/
theorem resetInput_cases (subOps portOps : Nat) (s : State) :
    resetInput subOps portOps s = s.resetEngine ∨
    ∃ i, s.busy = true ∧ decodeWord s.pend = .command i ∧
      resetInput subOps portOps s = (abandonedAt (commandSteps i) subOps portOps s).resetEngine := by
  unfold resetInput
  split
  · split
    · exact .inr ⟨_, ‹_›, ‹_›, rfl⟩
    · exact .inl rfl
  · exact .inl rfl

/-- Everything a move of the host can do (R83). -/
theorem hostMove_cases {m : HostMove} (h : hostMove m s = .next t) :
    (m = .wait ∧ engineStep s = .next t) ∨
    (∃ subOps portOps, m = .assertReset subOps portOps ∧ t = resetInput subOps portOps s) ∨
    (∃ width w, m = .write offsetCmd width w ∧ t = offerCommand w s) ∨
    (∃ offset width w, m = .write offset width w ∧ offset ≠ offsetCmd ∧ t = s) ∨
    (∃ offset width r n, m = .read offset width ∧ t = { s with hostReplies := s.hostReplies ++ [r], freeDraws := n }) ∨
    (∃ bytes, m = .loadInput bytes ∧ s.busy = false ∧ t = { s with inBits := bytesToBits bytes, inPos := 0 }) ∨
    (m = .drainOutput ∧ s.busy = false ∧ t = addReply (.bits s.outBits) { s with outBits := [] }) := by
  cases m with
  | write offset width w =>
    obtain ⟨rfl, ht⟩ | ⟨hne, ht⟩ := hostWrite_cases h
    · exact .inr (.inr (.inl ⟨_, _, rfl, ht⟩))
    · exact .inr (.inr (.inr (.inl ⟨_, _, _, rfl, hne, ht⟩)))
  | read offset width =>
    obtain ⟨r, n, ht⟩ := hostRead_cases h
    exact .inr (.inr (.inr (.inr (.inl ⟨_, _, r, n, rfl, ht⟩))))
  | loadInput bytes =>
    cases hb : s.busy <;> simp [hostMove, loadInput, hb] at h
    exact .inr (.inr (.inr (.inr (.inr (.inl ⟨_, rfl, rfl, h.symm⟩)))))
  | drainOutput =>
    cases hb : s.busy <;> simp [hostMove, drainOutput, hb] at h
    exact .inr (.inr (.inr (.inr (.inr (.inr ⟨rfl, rfl, h.symm⟩)))))
  | assertReset subOps portOps =>
    injection h with h
    exact .inr (.inl ⟨_, _, rfl, h.symm⟩)
  | wait => exact .inl ⟨rfl, h⟩

/-- A step is the engine's turn, or the head of the host's moves (R75). -/
theorem step_cases (h : step s = .next t) :
    (s.hostMoves = [] ∧ engineStep s = .next t) ∨
    ∃ m rest, s.hostMoves = m :: rest ∧ hostMove m { s with hostMoves := rest } = .next t := by
  unfold step at h
  split at h
  · exact .inl ⟨‹_›, h⟩
  · exact .inr ⟨_, _, ‹_›, h⟩

end Sys2Proof.Machine
end

