-- ==== Sys2Proof/Tests/Slice0.lean ====
section
/-! SUPPORT. Tests of single steps, their expected results taken from 95_test_vectors.md and the tables of
30_encoding.md; and, for each statement with hypotheses, a theorem `witness_<its name>` with concrete values that
meet them. -/

namespace Sys2Proof.Tests

set_option Elab.async false

open Sys2Proof Sys2Proof.Machine

/-! ### Helpers -/

/-- The step answers a next state of which `p` holds. -/
def answers (o : Host.Outcome State Fault Refusal) (p : State → Bool) : Bool :=
  match o with
  | .next t => p t
  | .fault _ => false
  | .refused _ => false

theorem next_of {o : Host.Outcome State Fault Refusal} {p : State → Bool} (h : answers o p = true) :
    ∃ t, o = .next t ∧ p t = true := by
  cases o with
  | next t => exact ⟨t, rfl, h⟩
  | fault _ => simp [answers] at h
  | refused _ => simp [answers] at h

/-- The engine's step after the host has written a command word. -/
def issue (w : Word) (s : State) : Host.Outcome State Fault Refusal := step (offerCommand w s)

/-- A bit string of the spec, most significant (first) bit first. -/
def bits (s : String) : Bits := s.toList.map fun ch => ch == '1'

/-- The reset state with these bytes loaded. -/
def loaded (bytes : List Byte) : State := { State.reset with inBits := bytesToBits bytes }

/-- The tree of E1. -/
def e1Tree : Tree := .node (.node (.leaf 66) (.leaf 256)) (.leaf 65)

/-- The reset state with the tree, codes and counts of E1. -/
def e1 : State :=
  { State.reset with
    freq := (freqInitial.set 65 3).set 66 1
    tree := some e1Tree
    code := codesOf e1Tree
    codesValid := true
    dstate := .atRoot }

/-- The reset state with the tree of the empty input. -/
def leafTree : State :=
  { State.reset with tree := some (.leaf 256), code := codesOf (.leaf 256), codesValid := true, dstate := .atRoot }

/-- A code table entry of the depth-40 tree: the code of symbol 0. -/
def deepCode : Bits := List.replicate 39 true ++ [false]

/-- The tree with 257 leaves in one comb, `depth = 256` and 513 nodes. -/
def comb : Nat → Tree
  | 0 => .leaf 256
  | n + 1 => .node (.leaf 65) (comb n)

/-! ### Well-formedness refuses an operand outside 0..256 (R89) -/

theorem test_freqRead_257_illFormed : (Instr.freqRead 257).wellFormed = false := by decide
theorem test_freqRead_256_wellFormed : (Instr.freqRead 256).wellFormed = true := by decide
theorem test_codeRead_257_illFormed : (Instr.codeRead 257 0).wellFormed = false := by decide
theorem test_codeRead_256_wellFormed : (Instr.codeRead 256 7).wellFormed = true := by decide
theorem test_encSym_511_illFormed : (Instr.encSym 511).wellFormed = false := by decide
theorem test_encSym_256_wellFormed : (Instr.encSym 256).wellFormed = true := by decide

/-! ### Decoding, one word for each constructor, written out from R88 and R92: RSV, WORD, SYM, OPCODE -/

theorem test_decode_nop : decodeWord 0b000000000000_000_000000000_00000000 = .command .nop := by decide
theorem test_decode_sreset : decodeWord 0b000000000000_000_000000000_00000001 = .command .sreset := by decide
theorem test_decode_clrerr : decodeWord 0b000000000000_000_000000000_00000010 = .command .clrerr := by decide
theorem test_decode_freqInit : decodeWord 0b000000000000_000_000000000_00010000 = .command .freqInit := by decide
theorem test_decode_freqAdd : decodeWord 0b000000000000_000_010100101_00010001 = .command (.freqAdd 0xA5) := by decide
theorem test_decode_freqScan : decodeWord 0b000000000000_000_000000000_00010010 = .command .freqScan := by decide
theorem test_decode_freqRead : decodeWord 0b000000000000_000_001000001_00010011 = .command (.freqRead 65) := by decide
theorem test_decode_treeBuild : decodeWord 0b000000000000_000_000000000_00100000 = .command .treeBuild := by decide
theorem test_decode_codeDerive : decodeWord 0b000000000000_000_000000000_00110000 = .command .codeDerive := by decide
theorem test_decode_codeRead : decodeWord 0b000000000000_010_100000000_00110001 = .command (.codeRead 256 2) := by decide
theorem test_decode_magicWrite : decodeWord 0b000000000000_000_000000000_01000000 = .command .magicWrite := by decide
theorem test_decode_hdrWrite : decodeWord 0b000000000000_000_000000000_01000001 = .command .hdrWrite := by decide
theorem test_decode_magicRead : decodeWord 0b000000000000_000_000000000_01000010 = .command .magicRead := by decide
theorem test_decode_hdrRead : decodeWord 0b000000000000_000_000000000_01000011 = .command .hdrRead := by decide
theorem test_decode_encSym : decodeWord 0b000000000000_000_100000000_01010000 = .command (.encSym 256) := by decide
theorem test_decode_encPass : decodeWord 0b000000000000_000_000000000_01010001 = .command .encPass := by decide
theorem test_decode_decRestart : decodeWord 0b000000000000_000_000000000_01100000 = .command .decRestart := by decide
theorem test_decode_decBit : decodeWord 0b000000000000_000_000000000_01100001 = .command .decBit := by decide
theorem test_decode_decSym : decodeWord 0b000000000000_000_000000000_01100010 = .command .decSym := by decide
theorem test_decode_decPass : decodeWord 0b000000000000_000_000000000_01100011 = .command .decPass := by decide
theorem test_decode_inReset : decodeWord 0b000000000000_000_000000000_01110000 = .command .inReset := by decide
theorem test_decode_outFlush : decodeWord 0b000000000000_000_000000000_01110001 = .command .outFlush := by decide
theorem test_decode_compress : decodeWord 0b000000000000_000_000000000_10000000 = .command .compress := by decide
theorem test_decode_decompress : decodeWord 0b000000000000_000_000000000_10000001 = .command .decompress := by decide

/-- The probe of the host reads a row of 32 bits. -/
theorem test_decodeTableWord : decodeTableWord 32 0x00010131 = none ∧ decodeTableWord 32 0x00010031 = some (codeLen 256) := by
  decide

/-- The assembler's range of a byte operand (R95). -/
theorem test_assemble_freqAdd :
    assembleLine "FREQ_ADD" [255] = some (.freqAdd 255) ∧ assembleLine "FREQ_ADD" [256] = none := by decide

/-- The assembler's pseudo-instruction CODE_LEN (R95, V1: 0x00004131). -/
theorem test_assemble_codeLen : assembleMove (.command "CODE_LEN" [65]) = some (.write 0x04 32 0x00004131) := by decide

/-! ### Single steps -/

/-- V8: NOP sets LAST_OP and nothing else. -/
theorem test_nop : 
    answers (issue 0x00000000 { e1 with lastOp := 0x80 })
      (fun t => statusWord t == 0x00000018 && t.count 65 == 3 && t.tree == some e1Tree && decStateWord t == 1) = true := by decide +kernel

/-- P4, V8: while ERR = 1 a NOP is dropped; STATUS 0x00FF0506. -/
theorem test_nop_dropped :
    statusWord (offerCommand 0x00000000 { State.reset with err := true, errCode := 5, lastOp := 0xFF }) = 0x00FF0506 := by
  decide +kernel

/-- V8: SRESET from STATUS 0x00FF0506 leaves STATUS 0 and IN_POS as it was. -/
theorem test_sreset :
    answers (issue 0x00000001 { State.reset with
      err := true, errCode := 5, lastOp := 0xFF, cmdDropped := true, inBits := bits "1111", inPos := 3 })
      (fun t => statusWord t == 0 && t.inPos == 3) = true := by decide +kernel

/-- P3: CLRERR after DECODER_DONE leaves STATUS 0x00020008. -/
theorem test_clrerr :
    answers (issue 0x00000002 { e1 with codesValid := false, err := true, errCode := 10, lastOp := 0x62, cmdDropped := true })
      (fun t => statusWord t == 0x00020008) = true := by decide +kernel

/-- V2: FREQ_INIT from FREQ[65] = 3. -/
theorem test_freqInit :
    answers (issue 0x00000010 { State.reset with freq := freqInitial.set 65 3 })
      (fun t => t.count 65 == 0 && t.count 256 == 1 && statusWord t == 0x00100000) = true := by decide +kernel

/-- V2: FREQ_ADD 65 changes FREQ[65] alone, and no valid bit. -/
theorem test_freqAdd :
    answers (issue 0x00004111 e1)
      (fun t => t.count 65 == 4 && t.count 66 == 1 && statusWord t == 0x00110018) = true := by decide +kernel

/-- V2: FREQ_ADD 7 at 0xFFFFFFFF. -/
theorem test_freqAdd_overflow :
    answers (issue 0x00000711 { State.reset with freq := freqInitial.set 7 0xFFFFFFFF })
      (fun t => t.count 7 == 0xFFFFFFFF && statusWord t == 0x00110902) = true := by decide +kernel

/-- V2: FREQ_SCAN of the bytes 12 34 from IN_POS = 4. -/
theorem test_freqScan_unaligned :
    answers (issue 0x00000012 { loaded [0x12, 0x34] with inPos := 4 })
      (fun t => t.count 0x23 == 1 && t.count 0x12 == 0 && t.count 0x34 == 0 && t.inPos == 12) = true := by
  decide +kernel

/-- V2: a port failure at FREQ_SCAN's second read keeps the first count. -/
theorem test_freqScan_ioError :
    answers (issue 0x00000012 { loaded [0x41] with portDraws := [false, true] })
      (fun t => t.count 65 == 1 && t.err && t.errCode == 4) = true := by decide +kernel

/-- V2: FREQ_READ 256 after reset. -/
theorem test_freqRead :
    answers (issue 0x00010013 State.reset) (fun t => t.result == 1 && statusWord t == 0x00130000) = true := by
  decide +kernel

/-- V3: TREE_BUILD after reset gives `Leaf(256)` and STATUS 0x00200008. -/
theorem test_treeBuild_empty :
    answers (issue 0x00000020 State.reset)
      (fun t => t.tree == some (.leaf 256) && statusWord t == 0x00200008 && treeInfoWord t == 0x00010001) = true := by
  decide +kernel

/-- V3: TREE_BUILD for {65: 1, 66: 1, 67: 1, 68: 1, 256: 1}, ties between leaves and merged nodes. -/
theorem test_treeBuild :
    answers (issue 0x00000020 { State.reset with
      freq := (((freqInitial.set 65 1).set 66 1).set 67 1).set 68 1 })
      (fun t => t.tree == some (.node (.node (.leaf 67) (.leaf 68)) (.node (.leaf 256) (.node (.leaf 65) (.leaf 66))))) =
      true := by
  decide +kernel

/-- V4: the codes of E1. -/
theorem test_codeDerive :
    answers (issue 0x00000030 { e1 with code := codeNone, codesValid := false })
      (fun t => t.codeFor 65 == some (bits "1") && t.codeFor 66 == some (bits "00") &&
        t.codeFor 256 == some (bits "01") && t.codeFor 67 == none && t.codesValid) = true := by decide +kernel

/-- V4: CODE_DERIVE after reset ends with NO_TREE. -/
theorem test_codeDerive_noTree :
    answers (issue 0x00000030 State.reset) (fun t => statusWord t == 0x00300602) = true := by decide +kernel

/-- V4: window 0 of the code of symbol 0 in the depth-40 tree. -/
theorem test_codeRead_window0 :
    answers (issue 0x00000031 { e1 with code := codeNone.set 0 (some deepCode) })
      (fun t => t.result == 0x80000028 && t.codeBits == 0xFFFFFFFE) = true := by decide +kernel

/-- V4: window 1 of the code of symbol 0 in the depth-40 tree. -/
theorem test_codeRead_window1 :
    answers (issue 0x00020031 { e1 with code := codeNone.set 0 (some deepCode) })
      (fun t => t.result == 0x80000028 && t.codeBits == 0x000000FF) = true := by decide +kernel

/-- V5: the tag is the bytes FA CE 82 01. -/
theorem test_magicWrite :
    answers (issue 0x00000040 State.reset) (fun t => t.outBits == bits "11111010110011101000001000000001") = true := by
  decide +kernel

/-- E1: the header of the scenario's tree. -/
theorem test_hdrWrite :
    answers (issue 0x00000041 e1) (fun t => t.outBits == bits "00100100001011000000001001000001") = true := by
  decide +kernel

/-- V5: another tag is UNRECOGNIZED_FORMAT, past it. -/
theorem test_magicRead_wrongTag :
    answers (issue 0x00000042 (loaded [0xFA, 0xCE, 0x82, 0x00, 0x24])) (fun t => t.errCode == 1 && t.inPos == 32) = true := by
  decide +kernel

/-- V5: fewer than 32 bits are UNRECOGNIZED_FORMAT, and nothing is consumed. -/
theorem test_magicRead_short :
    answers (issue 0x00000042 (loaded [0xFA, 0xCE, 0x82])) (fun t => t.errCode == 1 && t.inPos == 0) = true := by
  decide +kernel

/-- V5: HDR_READ of the E1 file's header. -/
theorem test_hdrRead :
    answers (issue 0x00000043 { loaded [0xFA, 0xCE, 0x82, 0x01, 0x24, 0x2C, 0x02, 0x41, 0xE2] with inPos := 32 })
      (fun t => t.tree == some e1Tree && t.inPos == 64 && decStateWord t == 1) = true := by decide +kernel

/-- V5: HDR_READ of a leaf field of 257. -/
theorem test_hdrRead_257 :
    answers (issue 0x00000043 { loaded [0xFA, 0xCE, 0x82, 0x01, 0xC0, 0x40] with inPos := 32 })
      (fun t => t.errCode == 2 && t.tree == none && t.inPos == 42) = true := by decide +kernel

/-- V6: ENC_SYM 66 under E1. -/
theorem test_encSym :
    answers (issue 0x00004250 e1) (fun t => t.outBits == bits "00" && !t.err) = true := by decide +kernel

/-- V6: ENC_SYM 67 under E1 is NO_CODE. -/
theorem test_encSym_noCode :
    answers (issue 0x00004350 e1) (fun t => t.outBits == [] && t.errCode == 8) = true := by decide +kernel

/-- V6: ENC_PASS of `41 41 41 42` under E1. -/
theorem test_encPass :
    answers (issue 0x00000051 { e1 with inBits := bytesToBits [0x41, 0x41, 0x41, 0x42] })
      (fun t => t.outBits == bits "1110001" && t.inPos == 32) = true := by decide +kernel

/-- V6: ENC_PASS of `41 42 41` under `Node(L65, L256)` stops after the byte without a code. -/
theorem test_encPass_noCode :
    answers (issue 0x00000051 { e1 with
      tree := some (.node (.leaf 65) (.leaf 256)), code := codesOf (.node (.leaf 65) (.leaf 256)),
      inBits := bytesToBits [0x41, 0x42, 0x41] })
      (fun t => t.outBits == bits "0" && statusWord t == 0x0051081A && t.inPos == 16) = true := by decide +kernel

/-- P3: DEC_RESTART from DONE. -/
theorem test_decRestart :
    answers (issue 0x00000060 { e1 with dstate := .done, codesValid := false })
      (fun t => decStateWord t == 1 && statusWord t == 0x00600008) = true := by decide +kernel

/-- V7: DEC_RESTART after reset. -/
theorem test_decRestart_noTree :
    answers (issue 0x00000060 State.reset) (fun t => statusWord t == 0x00600602) = true := by decide +kernel

/-- V7: DEC_BIT of a 1 at the root of E1 writes 41. -/
theorem test_decBit_leaf :
    answers (issue 0x00000061 { e1 with inBits := bits "1110001" })
      (fun t => t.result == 0x00010041 && decStateWord t == 1 && t.outBits == bits "01000001" && t.inPos == 1) = true := by
  decide +kernel

/-- V7: DEC_BIT of a 0 at the root of E1 stands mid-path. -/
theorem test_decBit_midPath :
    answers (issue 0x00000061 { e1 with inBits := bits "1110001", inPos := 5, result := 0x00010042 })
      (fun t => t.result == 0 && decStateWord t == 0x00010002 && t.outBits == [] && t.inPos == 6) = true := by
  decide +kernel

/-- V7: DEC_SYM of 00 writes 42. -/
theorem test_decSym :
    answers (issue 0x00000062 { e1 with inBits := bits "1110001", inPos := 3 })
      (fun t => t.result == 0x00010042 && decStateWord t == 1 && t.outBits == bits "01000010" && t.inPos == 5) = true := by
  decide +kernel

/-- V7: DEC_SYM in DONE is DECODER_DONE; STATUS 0x00620A0A. -/
theorem test_decSym_done :
    answers (issue 0x00000062 { e1 with dstate := .done, codesValid := false }) (fun t => statusWord t == 0x00620A0A) = true := by
  decide +kernel

/-- V7: DEC_PASS over the body of E1. -/
theorem test_decPass :
    answers (issue 0x00000063 { e1 with inBits := bits "11100010" })
      (fun t => wholeBytes t.outBits == [0x41, 0x41, 0x41, 0x42] && t.result == 0x00030100 && t.inPos == 7) = true := by
  decide +kernel

/-- V7: `Node(L65, L66)` over "011" ends at the root with MISSING_TERMINATOR. -/
theorem test_decPass_missingTerminator :
    answers (issue 0x00000063 { e1 with tree := some (.node (.leaf 65) (.leaf 66)), inBits := bits "011" })
      (fun t => wholeBytes t.outBits == [0x41, 0x42, 0x42] && t.errCode == 3 && t.inPos == 3) = true := by decide +kernel

/-- V8: IN_RESET from IN_POS = 32. -/
theorem test_inReset :
    answers (issue 0x00000070 { loaded [0x41, 0x41, 0x41, 0x42] with inPos := 32 }) (fun t => t.inPos == 0) = true := by
  decide +kernel

/-- V8: OUT_FLUSH at 71 bits. -/
theorem test_outFlush_71 :
    answers (issue 0x00000071 { State.reset with outBits := List.replicate 71 true })
      (fun t => t.outBits == List.replicate 71 true ++ [false]) = true := by decide +kernel

/-- V8: OUT_FLUSH at 72 bits. -/
theorem test_outFlush_72 :
    answers (issue 0x00000071 { State.reset with outBits := List.replicate 72 true })
      (fun t => t.outBits == List.replicate 72 true) = true := by decide +kernel

/-- V8, E1: COMPRESS of `41 41 41 42`. -/
theorem test_compress :
    answers (issue 0x00000080 (loaded [0x41, 0x41, 0x41, 0x42]))
      (fun t => wholeBytes t.outBits == [0xFA, 0xCE, 0x82, 0x01, 0x24, 0x2C, 0x02, 0x41, 0xE2] &&
        statusWord t == 0x00800018 && t.inPos == 32 && decStateWord t == 1) = true := by decide +kernel

/-- V8: DECOMPRESS of the E1 file. -/
theorem test_decompress :
    answers (issue 0x00000081 (loaded [0xFA, 0xCE, 0x82, 0x01, 0x24, 0x2C, 0x02, 0x41, 0xE2]))
      (fun t => wholeBytes t.outBits == [0x41, 0x41, 0x41, 0x42] && statusWord t == 0x00810008 &&
        t.result == 0x00030100 && decStateWord t == 3 && t.inPos == 71) = true := by decide +kernel

/-- E7: DECOMPRESS of the E1 file without its last byte. -/
theorem test_decompress_truncated :
    answers (issue 0x00000081 (loaded [0xFA, 0xCE, 0x82, 0x01, 0x24, 0x2C, 0x02, 0x41]))
      (fun t => statusWord t == 0x0081030A && t.inPos == 64) = true := by decide +kernel

/-- V1: an unassigned opcode from reset leaves STATUS 0x00FF0502. -/
theorem test_illegalWord :
    answers (issue 0x000000FF State.reset) (fun t => statusWord t == 0x00FF0502) = true := by decide +kernel

/-- R290: the reset input after one of ENC_SYM's two port operations keeps that bit, and gives the reset state. -/
theorem test_resetInput_midCommand :
    answers (step { e1 with busy := true, pend := 0x00004250, hostMoves := [.assertReset 0 2] })
      (fun t => t.outBits == bits "0" && statusWord t == 0 && t.tree == none && t.count 65 == 0) = true := by decide +kernel

/-- R83: the input is not loaded while BUSY = 1. -/
theorem test_loadInput_busy :
    step { e1 with busy := true, hostMoves := [.loadInput [0x41]] } = .refused .streamChangeWhileBusy := by rfl

/-! ### Witnesses: concrete values that meet the hypotheses of each statement, clause by clause -/

/-- The reset state with a move of the host next. -/
def moving (m : HostMove) : State := { State.reset with hostMoves := [m] }

/-- The E1 state mid-path, at its left subtree, with these bits ahead. -/
def midE1 (ahead : Bits) : State := { e1 with dstate := .midPath, dpath := [false], inBits := ahead }

theorem witness_DecodeInvertsEncode :
    (Instr.freqAdd 255).wellFormed = true ∧ (Instr.freqRead 256).wellFormed = true ∧
    (Instr.codeRead 256 7).wellFormed = true ∧ (Instr.encSym 0).wellFormed = true := by decide

theorem witness_EncodeInvertsDecode : decodeWord 0x000F0031 = .command (.codeRead 256 7) := by decide

/-- One word for each ground of R94, at the boundary of its field. -/
theorem witness_IllegalWordsAreExactlyThese :
    State.reset.busy = false ∧ State.reset.err = false ∧ decodeWord 0x80000000 = .illegal .reservedBits ∧
    decodeWord 0x00000082 = .illegal .unassignedOpcode ∧ decodeWord 0x00020011 = .illegal .strayOperand ∧
    decodeWord 0x00010011 = .illegal .byteOperandTooWide ∧ decodeWord 0x00010150 = .illegal .symbolOutOfRange ∧
    decodeWord 0x0001FF31 = .illegal .symbolOutOfRange ∧ decodeWord 0x00000100 = .illegal .strayOperand := by
  decide

theorem witness_StepRunsTheDecodedCommand :
    State.reset.hostMoves = [] ∧ (moving .wait).hostMoves = .wait :: [] ∧ State.reset.busy = false ∧
    (State.reset.withFetchWord 32 0x00000081).busy = true ∧
    decodeWord (State.reset.withFetchWord 32 0x00000081).pend = .command .decompress ∧
    decodeWord (State.reset.withFetchWord 32 0xFFFFFFFF).pend = .illegal .reservedBits := by decide

theorem witness_CommandWriteAcceptance :
    (moving (.write 0x04 32 0x00000003)).hostMoves = .write 0x04 32 0x00000003 :: [] ∧
    { moving (.write 0x04 32 0x00000003) with busy := true }.busy = true ∧
    { moving (.write 0x04 32 0x00000003) with err := true }.err = true ∧ (0x00000003 : Word) ≠ 1 ∧
    (0x00000003 : Word) ≠ 2 ∧ (moving (.write 0x04 32 0x00000003)).busy = false ∧
    (moving (.write 0x04 32 0x00000003)).err = false := by decide

theorem witness_AccessesWhileBusy :
    ({ moving (.read 0x1C 32) with busy := true }.busy = true ∧ (0x1C : BitVec 8) ∈ [0x10, 0x14, 0x18, 0x1C]) ∧
    ((moving (.write 0xFC 32 1)).hostMoves = .write 0xFC 32 1 :: [] ∧ (0xFC : BitVec 8).toNat % 4 = 0 ∧
      (0xFC : BitVec 8) ≠ 0x04) := by decide

theorem witness_IdleWindowAccesses :
    (moving (.read 0x20 32)).busy = false ∧ (0x20 : BitVec 8).toNat % 4 = 0 ∧ 0x20 ≤ (0x20 : BitVec 8).toNat ∧
    (0x1C : BitVec 8).toNat % 4 = 0 ∧ (0xFC : BitVec 8).toNat % 4 = 0 ∧ (0x00 : BitVec 8) ≠ 0x04 ∧
    (0x04 : BitVec 8).toNat % 4 = 0 ∧ { moving (.read 0x04 32) with busy := true }.hostMoves = .read 0x04 32 :: [] := by
  decide

theorem witness_UnsupportedAccessesRefused :
    ((16 : Nat) ≠ 32 ∨ (0x00 : BitVec 8).toNat % 4 ≠ 0) ∧ ((32 : Nat) ≠ 32 ∨ (0xFF : BitVec 8).toNat % 4 ≠ 0) ∧
    (0xFC : BitVec 8).toNat % 4 = 0 ∧ (moving (.read 0xFF 32)).hostMoves = .read 0xFF 32 :: [] ∧
    (moving (.write 0xFF 32 0)).hostMoves = .write 0xFF 32 0 :: [] := by decide

/-- No tree; one node and 513 nodes; a path of 256 bits. -/
theorem witness_ViewRegisterFields :
    State.reset.tree = none ∧ legalTree (.leaf 256) = true ∧ leafTree.tree = some (.leaf 256) ∧
    treeSize (comb 256) = 513 ∧ legalTree (comb 256) = true ∧
    { e1 with dpath := List.replicate 256 true }.dpath.length = 256 := by decide +kernel

theorem witness_ResetValues :
    (∃ t, exec .sreset e1 = .next t ∧ decide (t.tree = none) = true) ∧
    (e1.busy = false ∧ ∃ t, step { e1 with hostMoves := [.assertReset 0 0] } = .next t ∧ decide (t.tree = none) = true) ∧
    (State.reset = State.reset) :=
  ⟨next_of (by decide +kernel), ⟨rfl, next_of (by decide +kernel)⟩, rfl⟩

theorem witness_SresetIsTheReset :
    (moving (.assertReset 3 2)).busy = false ∧ (moving (.assertReset 3 2)).hostMoves = .assertReset 3 2 :: [] ∧
    { e1 with busy := true }.busy = true := by decide

/-- An idle engine, an illegal word, a command at its start; whole sub-operations that end, one that raises, a cut inside
one, and a whole command; ENC_SYM and FREQ_SCAN. -/
theorem witness_ResetAbandonsTheCommand :
    ((moving (.assertReset 0 0)).hostMoves = .assertReset 0 0 :: [] ∧ (moving (.assertReset 0 0)).busy = false ∧
      decodeWord 0x00000003 = .illegal .unassignedOpcode) ∧
    (decodeWord 0x00000041 = .command .hdrWrite ∧ (commandSteps .hdrWrite).length ≤ 1 ∧
      ∃ w, exec .hdrWrite { e1 with busy := true, pend := 0x00000041 } = .next w ∧
        decide (w.outBits.length = 32) = true) ∧
    (runSteps ((commandSteps .hdrWrite).take 0) e1 = .done () e1 ∧ (commandSteps .hdrWrite)[0]? = some hdrWriteBody ∧
      Instr.hdrWrite ≠ .inReset ∧ Instr.hdrWrite ≠ .compress ∧
      (∃ e v, hdrWriteBody (cutPorts 3 e1) = .raised e v) ∧ ∃ v, hdrWriteBody (cutPorts 8 e1) = .done () v) ∧
    (∃ e u, runSteps ((commandSteps .decompress).take 1) e1 = .raised e u) ∧
    (decodeWord 0x00004250 = .command (.encSym (symbolField 66)) ∧ e1.codesValid = true ∧
      e1.codeFor 66 = some (bits "00") ∧ NoPortFailure e1) ∧
    (decodeWord 0x00000012 = .command .freqScan ∧ NoPortFailure (loaded [0x41, 0x42]) ∧
      ∀ b : Byte, ((loaded [0x41, 0x42]).count (byteSymbol b)).toNat + (bytesAhead (loaded [0x41, 0x42])).count b < 2 ^ 32) :=
  ⟨by decide, ⟨by decide, by decide, next_of (by decide +kernel)⟩,
    ⟨rfl, rfl, by decide, by decide, ⟨_, _, rfl⟩, ⟨_, rfl⟩⟩, ⟨_, _, rfl⟩, by decide +kernel, by decide +kernel⟩

/-- P3's state after HDR_READ's error, and an idle engine in the error state. -/
theorem witness_ControlCommandResults :
    statusWord { State.reset with err := true, errCode := 2, lastOp := 0x43 } = 0x00430202 ∧
    { State.reset with err := true }.busy = false ∧ { State.reset with err := true }.err = true := by decide

theorem witness_OutFlushPadsToAByte :
    State.reset.portDraws.head? ≠ some true ∧ { e1 with portDraws := [true] }.portDraws.head? = some true := by decide

theorem witness_InReadAnswers :
    (1 ≤ 1 ∧ 1 ≤ 32) ∧ (1 ≤ 32 ∧ 32 ≤ 32) ∧ { e1 with portDraws := [true] }.portDraws.head? = some true ∧
    e1.portDraws.head? ≠ some true ∧ e1.inBits.length < e1.inPos + 1 ∧
    (loaded [1, 2, 3, 4]).inPos + 32 ≤ (loaded [1, 2, 3, 4]).inBits.length := by decide +kernel

/-- A write of three bits that all go through, and one that fails at its last bit. -/
theorem witness_OutWriteAppends :
    (∀ j, j < (bits "101").length → e1.portDraws[j]? ≠ some true) ∧
    (2 < (bits "101").length ∧ (∀ k, k < 2 → ([false, false, true] : List Bool)[k]? ≠ some true) ∧
      ([false, false, true] : List Bool)[2]? = some true) := by decide +kernel

theorem witness_StreamBytesAndHostMoves :
    0 < (wholeBytes (bits "010000010")).length ∧ (7 : Nat) < 8 ∧ 0 < ([0x41] : List Byte).length ∧
    (moving (.loadInput [0x41])).hostMoves = .loadInput [0x41] :: [] ∧
    (moving .drainOutput).hostMoves = .drainOutput :: [] := by decide +kernel

theorem witness_FreqAddCounts :
    { e1 with freq := freqInitial.set 7 0xFFFFFFFE }.count (byteSymbol 7) ≠ 0xFFFFFFFF ∧
    { e1 with freq := freqInitial.set 7 0xFFFFFFFF }.count (byteSymbol 7) = 0xFFFFFFFF := by decide +kernel

/-- A count that reaches its maximum. -/
theorem witness_FreqScanCountsTheInput :
    NoPortFailure { loaded [0x41] with freq := freqInitial.set 65 0xFFFFFFFE } ∧
    ∀ b : Byte, ({ loaded [0x41] with freq := freqInitial.set 65 0xFFFFFFFE }.count (byteSymbol b)).toNat +
      (bytesAhead { loaded [0x41] with freq := freqInitial.set 65 0xFFFFFFFE }).count b < 2 ^ 32 := by decide +kernel

/-- A failure at the last read, and a count that the first of two bytes brings to its maximum. -/
theorem witness_FreqScanErrors :
    (1 ≤ bitsLeft (loaded [0x41]) / 8 ∧ (∀ j, j < 1 → ([false, true] : List Bool)[j]? ≠ some true) ∧
      ([false, true] : List Bool)[1]? = some true ∧
      ∀ b : Byte, ((loaded [0x41]).count (byteSymbol b)).toNat + ((bytesAhead (loaded [0x41])).take 1).count b < 2 ^ 32) ∧
    (bytesAhead (loaded [0x41, 0x41]) = [0x41] ++ 0x41 :: [] ∧
      (∀ j, j ≤ ([0x41] : List Byte).length → (loaded [0x41, 0x41]).portDraws[j]? ≠ some true) ∧
      (∀ x : Byte, ({ loaded [0x41, 0x41] with freq := freqInitial.set 65 0xFFFFFFFE }.count (byteSymbol x)).toNat +
        ([0x41] : List Byte).count x < 2 ^ 32) ∧
      ({ loaded [0x41, 0x41] with freq := freqInitial.set 65 0xFFFFFFFE }.count (byteSymbol 0x41)).toNat +
        ([0x41] : List Byte).count 0x41 = 2 ^ 32 - 1) := by
  decide +kernel

theorem witness_FreqInitThenScanCounts :
    (loaded [0x41]).err = false ∧ (loaded [0x41]).inPos = 0 ∧ NoPortFailure (loaded [0x41]) ∧
    (∀ b : Byte, ([0x41] : List Byte).count b < 2 ^ 32) ∧
    ∃ t u, exec .freqInit (loaded [0x41]) = .next t ∧ exec .freqScan t = .next u ∧ u.err = false := by
  refine ⟨rfl, rfl, by decide +kernel, by decide +kernel, (loaded [0x41]).finish, ?_⟩
  obtain ⟨u, hu, h⟩ := next_of (o := exec .freqScan (loaded [0x41]).finish) (p := fun u => decide (u.err = false))
    (by decide +kernel)
  exact ⟨u, rfl, hu, of_decide_eq_true h⟩

theorem witness_BuiltTreeProperties : freqInitial[Config.eos] = 1 ∧ e1.freq[Config.eos] = 1 := by decide +kernel

/-- The counts of E1, and another full tree over the same symbols. -/
theorem witness_BuiltTreeIsOptimal :
    e1.freq[Config.eos] = 1 ∧
    (treeLeaves (.node (.leaf 65) (.node (.leaf 256) (.leaf 66)))).Perm (allSymbols.filter fun x => e1.freq[x] ≠ 0) := by
  decide +kernel

theorem witness_TreeBuildInstallsTheTree : e1.count Config.eos = 1 := by decide +kernel

theorem witness_WeightsNeverOverflow : (leafNodes e1.freq).length = 3 := by decide +kernel

/-- Two nodes of equal weight, told apart by their index. -/
theorem witness_RemoveMinTakesTheLeastKey :
    leafNodes e1.freq ≠ [] ∧ ((leafNodes e1.freq).map HeapNode.index).Nodup ∧
    (leafNodes e1.freq).map HeapNode.weight = [3, 1, 1] := by decide +kernel

theorem witness_CodeDeriveRecordsPaths : e1.tree = some e1Tree ∧ State.reset.tree = none := by decide

theorem witness_CodesArePrefixFree :
    DistinctLeaves e1Tree ∧ (codesOf e1Tree)[(65 : Symbol)] = some (bits "1") ∧
    (codesOf e1Tree)[(66 : Symbol)] = some (bits "00") ∧ (65 : Symbol) ≠ 66 := by decide +kernel

/-- A code of 256 bits, and the empty code. -/
theorem witness_CodeLengthsFillTheTree :
    legalTree (comb 256) = true ∧ (codesOf (comb 256))[(256 : Symbol)] = some (List.replicate 256 true) ∧
    legalTree (.leaf 256) = true ∧ DistinctLeaves (.leaf 256) ∧ (codesOf (.leaf 256))[(256 : Symbol)] = some [] := by
  decide +kernel

/-- No code table; no code; a code of 256 bits in windows 0 and 7; the empty code; operands past 256. -/
theorem witness_CodeReadShowsTheCode :
    State.reset.codesValid = false ∧ (e1.codesValid = true ∧ e1.codeFor 67 = none) ∧
    ({ e1 with code := codeNone.set 0 (some (List.replicate 256 true)) }.codeFor 0 = some (List.replicate 256 true) ∧
      (List.replicate 256 true).length ≤ 256 ∧ 32 * (7 : BitVec 3).toNat + 31 < (List.replicate 256 true).length) ∧
    (leafTree.codesValid = true ∧ leafTree.codeFor 256 = some [] ∧ ([] : Bits).length ≤ 32 * (0 : BitVec 3).toNat) ∧
    256 < (257 : BitVec 9).toNat ∧ 256 < (511 : BitVec 9).toNat := by decide +kernel

theorem witness_HeaderWriteSerializes :
    legalTree (comb 256) = true ∧ (serialize (comb 256)).length = 2826 ∧ State.reset.tree = none ∧
    e1.tree = some e1Tree ∧ (headerFields e1Tree).length = 8 ∧ (∀ j, j < 8 → e1.portDraws[j]? ≠ some true) ∧
    (∀ k, k < 7 → (List.replicate 7 false ++ [true])[k]? ≠ some true) ∧
    (List.replicate 7 false ++ [true])[7]? = some true := by decide +kernel

theorem witness_HeaderRoundTrip :
    legalTree e1Tree = true ∧ NoPortFailure { e1 with inBits := serialize e1Tree ++ bits "11" } ∧
    { e1 with inBits := serialize e1Tree ++ bits "11" }.inBits.drop 0 = serialize e1Tree ++ bits "11" := by
  decide +kernel

/-- A header that is accepted, and one that is not (V5: C0 40). -/
theorem witness_HeaderReadAcceptsExactlyHeaders :
    NoPortFailure (loaded [0xC0, 0x00]) ∧ NoPortFailure (loaded [0xC0, 0x40]) ∧
    (∃ u, exec .hdrRead (loaded [0xC0, 0x00]) = .next u ∧ decide (u.err = false) = true) ∧
    (∃ u, exec .hdrRead (loaded [0xC0, 0x40]) = .next u ∧ decide (u.err = true) = true) :=
  ⟨by decide +kernel, by decide +kernel, next_of (by decide +kernel), next_of (by decide +kernel)⟩

/-- MALFORMED_HEADER and IO_ERROR; by fields: a port failure, an input that ends inside a symbol, a symbol field of 257, the
514th node, and a single leaf that is not the sentinel. -/
theorem witness_HeaderReadFailureState :
    ((headerFields e1Tree)[3]? = some (bits "001000010") ∧ flagCount ((headerFields e1Tree).take 4) ≤ 513 ∧
      ((headerFields e1Tree).take 3).flatten = bits "001" ∧ (bits "0010").length < (bits "001000010").length ∧
      (∀ k, k < 3 → ([false, false, false, true] : List Bool)[k]? ≠ some true) ∧
      ([false, false, false, true] : List Bool)[3]? = some true ∧ e1.portDraws[3]? ≠ some true ∧
      (bits "001000010").length = 9 ∧ 256 < (257 : BitVec 9).toNat ∧ bitsOf (257 : BitVec 9) = bits "100000001") ∧
    ((headerFields (comb 257))[769]? = some [true] ∧ flagCount ((headerFields (comb 257)).take 769) = 513 ∧
      flagCount ((headerFields (comb 257)).take 770) = 514) ∧
    ((65 : Symbol) ≠ Config.eos ∧ (loaded [0x90, 0x40]).inBits.drop 0 = serialize (.leaf 65) ++ bits "000000" ∧
      ∀ k, k < 2 → (loaded [0x90, 0x40]).portDraws[k]? ≠ some true) ∧
    (∃ u, exec .hdrRead (loaded [0xC0, 0x40]) = .next u ∧ decide (u.err = true ∧ u.errCode = 2) = true) ∧
    (∃ u, exec .hdrRead { loaded [0xC0, 0x00] with portDraws := [false, true] } = .next u ∧
      decide (u.err = true ∧ u.errCode = 4) = true) :=
  ⟨by decide +kernel, by decide +kernel, by decide +kernel, next_of (by decide +kernel), next_of (by decide +kernel)⟩

theorem witness_SerializationIsAPrefixCode : serialize e1Tree ++ [true] = serialize e1Tree ++ bits "1" := by
  decide +kernel

theorem witness_FormatTagCommands :
    { e1 with portDraws := [true] }.portDraws.head? = some true ∧ e1.portDraws.head? ≠ some true ∧
    (loaded [0xFA, 0xCE, 0x82]).inBits.length < (loaded [0xFA, 0xCE, 0x82]).inPos + 32 ∧
    (0 + 32 ≤ (loaded [0xFA, 0xCE, 0x82, 0x00]).inBits.length ∧
      ((loaded [0xFA, 0xCE, 0x82, 0x00]).inBits.drop 0).take 32 ≠ bitsOf State.reset.magic) ∧
    ((loaded [0xFA, 0xCE, 0x82, 0x01]).inBits.drop 0).take 32 = bitsOf State.reset.magic := by decide +kernel

/-- Codes of two bits and of none; a failure at the second bit; operands past 256. -/
theorem witness_EncSymEmitsTheCode :
    State.reset.codesValid = false ∧ (e1.codesValid = true ∧ e1.codeFor 67 = none) ∧
    (e1.codeFor 66 = some (bits "00") ∧ NoPortFailure e1 ∧ leafTree.codeFor 256 = some []) ∧
    (1 < (bits "00").length ∧ (∀ k, k < 1 → ([false, true] : List Bool)[k]? ≠ some true) ∧
      ([false, true] : List Bool)[1]? = some true) ∧ 256 < (257 : BitVec 9).toNat := by decide +kernel

/-- The scenario, and the empty input with the empty code. -/
theorem witness_EncPassWritesTheBody :
    ({ e1 with inBits := bytesToBits [65, 65, 65, 66] }.codesValid = true ∧
      NoPortFailure { e1 with inBits := bytesToBits [65, 65, 65, 66] } ∧
      bodyOf e1.code (bytesAhead { e1 with inBits := bytesToBits [65, 65, 65, 66] }) = some (bits "1110001")) ∧
    (leafTree.codesValid = true ∧ bodyOf leafTree.code (bytesAhead leafTree) = some []) ∧
    (e1.err = false ∧ ∃ t, exec .encPass e1 = .next t ∧ decide (t.err = false) = true) :=
  ⟨by decide +kernel, by decide +kernel, rfl, next_of (by decide +kernel)⟩

/-- Each missing code; then a port failure at the read after one byte, at the second bit of the next byte's code, at the
read that would answer the end of data, and at the second bit of the sentinel's code. -/
theorem witness_EncPassStopsAtAMissingCode :
    (bytesAhead { e1 with inBits := bytesToBits [65, 66] } = [65] ++ [66] ∧ codesOfBytes e1.code [65] = some (bits "1") ∧
      e1.codeFor (byteSymbol 66) = some (bits "00") ∧ 2 = [65].length + (bits "1").length ∧
      4 = [65].length + (bits "1").length + 1 + 1 ∧ 1 < (bits "00").length ∧
      (∀ k, k < 4 → ([false, false, false, false, true] : List Bool)[k]? ≠ some true) ∧
      ([false, false, false, false, true] : List Bool)[4]? = some true) ∧
    (bytesAhead { e1 with inBits := bytesToBits [65] } = [65] ++ [] ∧ e1.codeFor Config.eos = some (bits "01") ∧
      1 < (bits "01").length) ∧
    State.reset.codesValid = false ∧
    (bytesAhead { e1 with inBits := bytesToBits [65, 67, 65] } = [65] ++ 67 :: [65] ∧
      codesOfBytes e1.code [65] = some (bits "1") ∧ e1.codeFor (byteSymbol 67) = none) ∧
    (codesOfBytes (codesOf (.node (.leaf 65) (.leaf 66))) [65] = some (bits "0") ∧
      { e1 with code := codesOf (.node (.leaf 65) (.leaf 66)) }.codeFor Config.eos = none) := by decide +kernel

theorem witness_DecRestartArms : e1.tree ≠ none ∧ State.reset.tree = none := by decide

/-- Every row of the table: unarmed, done, a leaf root, mid-path and at the root; each end of the bit read. -/
theorem witness_DecBitTransitions :
    State.reset.dstate = .unarmed ∧ { e1 with dstate := .done }.dstate = .done ∧
    (leafTree.dstate = .atRoot ∧ leafTree.dpath = [] ∧ leafTree.tree = some (.leaf Config.eos)) ∧
    ((midE1 [true]).dstate = .midPath ∧ subtree e1Tree (midE1 [true]).dpath = some (.node (.leaf 66) (.leaf 256)) ∧
      (midE1 [true]).inBits[(midE1 [true]).inPos]? = some true ∧ (midE1 []).inBits.length ≤ (midE1 []).inPos) ∧
    (e1.dstate = .atRoot ∧ subtree e1Tree e1.dpath = some (.node (.node (.leaf 66) (.leaf 256)) (.leaf 65))) ∧
    (Tree.leaf 256 = .leaf Config.eos ∧ (66 : Symbol) ≠ Config.eos ∧ ([false, true] : List Bool)[1]? = some true ∧
      (midE1 []).portDraws[1]? ≠ some true) := by decide +kernel

theorem witness_DecSymReachesTheLeaf :
    ((midE1 [true, true]).dstate = .midPath ∧ (midE1 [true, true]).tree = some e1Tree ∧
      NoPortFailure (midE1 [true, true]) ∧ subtree e1Tree ((midE1 [true, true]).dpath ++ [true]) = some (.leaf 256) ∧
      (midE1 [true, true]).inBits.drop (midE1 [true, true]).inPos = [true] ++ [true]) ∧
    (subtree e1Tree (e1.dpath ++ [true]) = some (.leaf 65) ∧ (65 : Symbol) ≠ Config.eos) ∧
    (leafTree.dstate = .atRoot ∧ leafTree.dpath = [] ∧ leafTree.tree = some (.leaf Config.eos)) ∧
    (subtree e1Tree (e1.dpath ++ [false]) = some (.node (.leaf 66) (.leaf 256)) ∧
      { e1 with inBits := [false] }.inBits.drop 0 = [false] ++ [] ∧
      subtree e1Tree ((midE1 []).dpath ++ []) = some (.node (.leaf 66) (.leaf 256)) ∧
      ([true] : List Bool)[([] : Bits).length]? = some true ∧ (midE1 []).portDraws[([] : Bits).length]? ≠ some true) ∧
    (subtree e1Tree ((midE1 [false]).dpath ++ [false]) = some (.leaf 66) ∧ (66 : Symbol) ≠ Config.eos ∧
      (∀ k, k < 1 → ([false, true] : List Bool)[k]? ≠ some true) ∧ ([false, true] : List Bool)[1]? = some true) := by
  decide +kernel

/-- The mid-path state meets the invariant, with an error recorded or a command pending too. -/
theorem inv_midE1 (ahead : Bits) : Inv (midE1 ahead) where
  sentinelCount := by show e1.count Config.eos = 1; decide +kernel
  treeLegal t h := by
    obtain rfl : e1Tree = t := by simpa [midE1, e1] using h
    decide +kernel
  unarmedIffNoTree := by simp [midE1, e1, State.treeValid]
  pathEmpty h := absurd rfl h
  pathInternal _ := ⟨e1Tree, .leaf 66, .leaf 256, rfl, rfl⟩
  codesCurrent _ := ⟨e1Tree, rfl, rfl⟩
  cursorInside := Nat.zero_le _
  errCodeZero := by simp [midE1, e1, State.reset]
  errCodeLegal := by simp [midE1, e1, State.reset]
  errorPending h := by simp [midE1, e1, State.reset] at h
  heapFits := by simp [midE1, e1, State.reset, Config.heapCap]
  stackFits := by simp [midE1, e1, State.reset, Config.nodeCap]

/-- The same state with CLRERR pending in the error state, and a dropped write recorded. -/
def clearing : State := { midE1 [] with busy := true, err := true, errCode := 8, cmdDropped := true, pend := 2 }

theorem inv_clearing : Inv clearing :=
  have h := inv_midE1 []
  { h with
    errCodeZero := by decide
    errCodeLegal := by decide
    errorPending := by intros; decide }

theorem witness_FreqInitAndReadResults : 256 < (257 : BitVec 9).toNat ∧ 256 < (511 : BitVec 9).toNat ∧ Inv (midE1 []) :=
  ⟨by decide, by decide, inv_midE1 []⟩

/-- One DEC_SYM that ends at the sentinel, one that ends at a byte, one that ends in an error. -/
theorem witness_DecPassIsDecSymRepeated :
    (Inv (midE1 [true]) ∧ (midE1 [true]).err = false ∧
      ∃ u, exec .decSym (midE1 [true]) = .next u ∧ decide (passOver u = true ∧ u.err = false) = true) ∧
    (Inv (midE1 [false]) ∧ ∃ u, exec .decSym (midE1 [false]) = .next u ∧ decide (passOver u = false) = true) ∧
    (Inv (midE1 []) ∧ ∃ u, exec .decSym (midE1 []) = .next u ∧ decide (passOver u = true ∧ u.err = true) = true) :=
  ⟨⟨inv_midE1 _, rfl, next_of (by decide +kernel)⟩, ⟨inv_midE1 _, next_of (by decide +kernel)⟩,
    ⟨inv_midE1 _, next_of (by decide +kernel)⟩⟩

/-- The scenario, and the empty input under `Leaf(256)`. -/
theorem witness_DecodingInvertsEncoding :
    (DistinctLeaves e1Tree ∧ legalTree e1Tree = true ∧ bodyOf (codesOf e1Tree) [65, 65, 65, 66] = some (bits "1110001") ∧
      { e1 with inBits := bits "11100010" }.tree = some e1Tree ∧ { e1 with inBits := bits "11100010" }.dstate = .atRoot ∧
      { e1 with inBits := bits "11100010" }.dpath = [] ∧ NoPortFailure { e1 with inBits := bits "11100010" } ∧
      { e1 with inBits := bits "11100010" }.inBits.drop 0 = bits "1110001" ++ [false]) ∧
    (DistinctLeaves (.leaf 256) ∧ legalTree (.leaf 256) = true ∧ bodyOf (codesOf (.leaf 256)) [] = some []) := by
  decide +kernel

theorem witness_EveryCommandReachesBusyZero : Inv (midE1 [true]) ∧ Inv clearing := ⟨inv_midE1 _, inv_clearing⟩

theorem witness_CompressWritesTheFile :
    NoPortFailure (loaded [0x41]) ∧ (loaded [0x41]).inBits = bytesToBits [0x41] ∧ (loaded [0x41]).inPos = 0 ∧
    (loaded [0x41]).outBits = [] ∧ ∀ b : Byte, ([0x41] : List Byte).count b < 2 ^ 32 := by decide +kernel

/-- The file of the empty input, and one with another tag. -/
theorem witness_DecompressReadsTheFile :
    (NoPortFailure (loaded [0xFA, 0xCE, 0x82, 0x01, 0xC0, 0x00]) ∧ DistinctLeaves (.leaf 256) ∧
      legalTree (.leaf 256) = true ∧ bodyOf (codesOf (.leaf 256)) [] = some [] ∧
      (loaded [0xFA, 0xCE, 0x82, 0x01, 0xC0, 0x00]).outBits = [] ∧
      (loaded [0xFA, 0xCE, 0x82, 0x01, 0xC0, 0x00]).inBits.drop 0 =
        bitsOf State.reset.magic ++ serialize (.leaf 256) ++ [] ++ bits "000000") ∧
    ((loaded [0xFA, 0xCE, 0x82, 0x00]).inBits.drop 0).take 32 ≠ bitsOf State.reset.magic := by decide +kernel

theorem witness_CompressThenDecompress :
    NoPortFailure (loaded []) ∧ (loaded []).inBits = bytesToBits [] ∧ (loaded []).inPos = 0 ∧ (loaded []).outBits = [] ∧
    (∀ b : Byte, ([] : List Byte).count b < 2 ^ 32) ∧
    (∃ t, exec .compress (loaded []) = .next t ∧
      decide ((loaded [0xFA, 0xCE, 0x82, 0x01, 0xC0, 0x00]).inBits = bytesToBits (wholeBytes t.outBits)) = true) ∧
    (loaded [0xFA, 0xCE, 0x82, 0x01, 0xC0, 0x00]).magic = (loaded []).magic :=
  ⟨by decide +kernel, by decide +kernel, rfl, rfl, by decide +kernel, next_of (by decide +kernel), rfl⟩

theorem witness_SequencesAreTheirSubcommands : e1.err = false := by decide

theorem witness_SentinelCountStaysOne :
    e1.count Config.eos = 1 ∧ ∃ t, step { e1 with busy := true, pend := 0x00000010 } = .next t ∧ decide (t.count 65 = 0) = true :=
  ⟨by decide +kernel, next_of (by decide +kernel)⟩

theorem witness_StepKeepsTheInvariant :
    Inv clearing ∧ ∃ t, step clearing = .next t ∧ decide (t.err = false) = true :=
  ⟨inv_clearing, next_of (by decide +kernel)⟩

theorem witness_ErrorMatrixHolds :
    Instr.decBit.wellFormed = true ∧ (midE1 []).err = false ∧
    ∃ t, exec .decBit (midE1 []) = .next t ∧ decide (t.err = true) = true :=
  ⟨rfl, rfl, next_of (by decide +kernel)⟩

theorem witness_CommandsChangeOnlyWhatTheyName :
    ∃ t, exec .decBit (midE1 [false]) = .next t ∧ decide (t.outBits ≠ [] ∧ writesFreq .decBit = false) = true :=
  next_of (by decide +kernel)

/-- An error that stays through a dropped write, and one cleared by the pending CLRERR. -/
theorem witness_ErrorsDoNotNest :
    (Inv clearing ∧ ∃ t, step { clearing with hostMoves := [.write 0x04 32 0x00000020] } = .next t ∧
      decide (t.err = true) = true) ∧
    (clearing.err = true ∧ ∃ t, step clearing = .next t ∧ decide (t.err = false ∧ t.cmdDropped = false) = true) :=
  ⟨⟨inv_clearing, next_of (by decide +kernel)⟩, rfl, next_of (by decide +kernel)⟩

/-- The state of the empty input's tree meets the invariant. -/
theorem inv_leafTree : Inv leafTree where
  sentinelCount := by decide +kernel
  treeLegal t h := by
    obtain rfl : Tree.leaf 256 = t := by simpa [leafTree] using h
    decide +kernel
  unarmedIffNoTree := by simp [leafTree, State.treeValid]
  pathEmpty _ := rfl
  pathInternal h := by simp [leafTree] at h
  codesCurrent _ := ⟨.leaf 256, rfl, rfl⟩
  cursorInside := Nat.zero_le _
  errCodeZero := by simp [leafTree, State.reset]
  errCodeLegal := by simp [leafTree, State.reset]
  errorPending h := by simp [leafTree, State.reset] at h
  heapFits := by simp [leafTree, State.reset, Config.heapCap]
  stackFits := by simp [leafTree, State.reset, Config.nodeCap]

theorem witness_PortWorkIsBounded :
    (Inv (midE1 [false]) ∧ ∃ t, exec .decBit (midE1 [false]) = .next t ∧ decide (t.inPos = 1) = true) ∧
    (Inv leafTree ∧ leafTree.tree = some (.leaf 256) ∧
      ∃ t, exec .decPass leafTree = .next t ∧ decide (t.dstate = .done) = true) :=
  ⟨⟨inv_midE1 _, next_of (by decide +kernel)⟩, inv_leafTree, rfl, next_of (by decide +kernel)⟩

end Sys2Proof.Tests
end

section
/-! PROOF. What a running command can write, said once: the relation `Write`, and that every sub-operation of every
command but SRESET and CLRERR ends some writes later, at its end or where it raises. An invariant is then one case for
each kind of write, with no second walk through the commands. -/

namespace Sys2Proof.Machine

/-- One write of a running command's rule, for every command but SRESET and CLRERR: what it may change, and what it
rests on where an invariant needs that. -/
inductive Write : State → State → Prop where
  /-- `n` port operations take their draws (R82). -/
  | draws (n : Nat) (s : State) : Write s { s with portDraws := s.portDraws.drop n }
  /-- A read consumes bits that are there (R61). -/
  | consume (n : Nat) (s : State) (h : s.inPos + n ≤ s.inBits.length) : Write s { s with inPos := s.inPos + n }
  /-- InReset (R64). -/
  | rewind (s : State) : Write s (rewindInput s)
  /-- The output grows (R62, R65). -/
  | output (c : Bits) (s : State) : Write s { s with outBits := s.outBits ++ c }
  /-- FREQ_INIT's table (R130). -/
  | freqInit (s : State) : Write s { s with freq := freqInitial }
  /-- The count of a byte (R131). -/
  | count (b : Byte) (v : Word) (s : State) : Write s { s with freq := s.freq.set (byteSymbol b).val v }
  /-- RESULT and CODE_BITS (R33, R34). -/
  | result (r c : Word) (s : State) : Write s { s with result := r, codeBits := c }
  /-- CODE, from the tree TREE holds (R180). -/
  | derive (t : Tree) (s : State) (h : s.tree = some t) : Write s { s with code := codesOf t, codesValid := true }
  /-- The tree TREE_BUILD makes, its heap one node (R150). -/
  | build (t : Tree) (x : BitVec 10) (s : State) (h : buildTree s.freq = some t) :
      Write s (State.installTree t { s with codesValid := false, heap := [x] })
  /-- The decoder stands at the root, or is done, under a tree (R229, R230). -/
  | settle (d : DState) (t : Tree) (s : State) (hd : d = .atRoot ∨ d = .done) (h : s.tree = some t) :
      Write s { s with dstate := d, dpath := [] }
  /-- The decoder stands at an internal node (R230). -/
  | descend (p : Bits) (t l r : Tree) (s : State) (h : s.tree = some t) (hp : subtree t p = some (.node l r)) :
      Write s { s with dstate := .midPath, dpath := p }
  /-- What HDR_READ clears when it starts (R205). -/
  | startHeader (s : State) : Write s (startHeader s)
  /-- The header reader's stack and count (R43). -/
  | header (st : List (Option Tree)) (n : BitVec 10) (s : State) (h : st.length ≤ n.toNat) (hn : n.toNat ≤ 513) :
      Write s { s with hdrStack := st, hdrCount := n }
  /-- The tree HDR_READ accepts, no code table being valid (R205). -/
  | accept (t : Tree) (s : State) (h : legalTree t = true) (hc : s.codesValid = false) : Write s (s.installTree t)

/-- Any number of writes. -/
abbrev Writes : State → State → Prop := Relation.ReflTransGen Write

/-- A property that every write keeps is kept by all of them. -/
theorem Writes.keeps {s t : State} (h : Writes s t) (P : State → Prop) (hP : ∀ s t, Write s t → P s → P t)
    (hs : P s) : P t := by
  induction h with
  | refl => exact hs
  | tail _ hw ih => exact hP _ _ hw ih

/-- Wherever the run ends, at its end or where it raises, `P` holds. -/
def Run.EndsIn {α : Type} (P : State → Prop) : Run α → Prop
  | .done _ t => P t
  | .raised _ t => P t
  | .stuck _ => True

section EndsIn

variable {α β : Type} {P Q : State → Prop} {s : State} {r : Run α}

@[simp] theorem Run.endsIn_done (a : α) (t : State) : (Run.done a t).EndsIn P ↔ P t := Iff.rfl
@[simp] theorem Run.endsIn_raised (e : ErrorKind) (t : State) : (Run.raised e t : Run α).EndsIn P ↔ P t := Iff.rfl
@[simp] theorem Run.endsIn_stuck (x : Fault) : (Run.stuck x : Run α).EndsIn P := trivial

theorem Run.EndsIn.mono (h : r.EndsIn P) (hpq : ∀ t, P t → Q t) : r.EndsIn Q := by
  cases r with
  | done a t => exact hpq t h
  | raised e t => exact hpq t h
  | stuck x => trivial

theorem Run.EndsIn.andThen {f : α → State → Run β} (h : r.EndsIn P)
    (hf : ∀ a t, r = .done a t → P t → (f a t).EndsIn P) : (r.andThen f).EndsIn P := by
  cases r with
  | done a t => exact hf a t rfl h
  | raised e t => exact h
  | stuck x => trivial

/-- A run that starts after some writes has made them too. -/
theorem Run.EndsIn.after {s u : State} (hw : Writes s u) (h : r.EndsIn (Writes u)) : r.EndsIn (Writes s) :=
  h.mono fun _ ht => hw.trans ht

/-- Writing parts one after another: the second may use how the first ended. -/
theorem Run.EndsIn.andThenWrites {f : α → State → Run β} (h : r.EndsIn (Writes s))
    (hf : ∀ a t, r = .done a t → (f a t).EndsIn (Writes t)) : (r.andThen f).EndsIn (Writes s) :=
  h.andThen fun a t hr ht => (hf a t hr).after ht

theorem repeatWhile_writes {f : State → Run Bool} (hf : ∀ s, (f s).EndsIn (Writes s)) (n : Nat) (s : State) :
    (repeatWhile n f s).EndsIn (Writes s) := by
  induction n generalizing s with
  | zero => trivial
  | succ n ih =>
    rw [repeatWhile_succ]
    refine (hf s).andThenWrites fun again t _ => ?_
    cases again with
    | true => exact ih t
    | false => exact .refl

theorem runSteps_endsIn {fs : List (State → Run Unit)} (hf : ∀ f ∈ fs, ∀ s, P s → (f s).EndsIn P) {s : State}
    (hs : P s) : (runSteps fs s).EndsIn P := by
  induction fs generalizing s with
  | nil => exact hs
  | cons f fs ih =>
    exact (hf f (by simp) s hs).andThen fun _ t _ ht => ih (fun g hg => hf g (by simp [hg])) ht

end EndsIn

/-! ### What the shared operations write -/

theorem Write.tail (s : State) : Write s { s with portDraws := s.portDraws.tail } := by
  simpa using Write.draws 1 s

theorem readOrBreak_writes (n : Nat) (s : State) : (readOrBreak n s).EndsIn (Writes s) := by
  obtain ⟨h, -⟩ | ⟨h, -⟩ | ⟨h, -, hn⟩ := readOrBreak_cases n s <;> rw [h]
  · exact .single (.tail s)
  · exact .single (.tail s)
  · exact .tail (.single (.tail s)) (.consume n _ hn)

theorem readOrRaise_writes (n : Nat) (e : ErrorKind) (s : State) : (readOrRaise n e s).EndsIn (Writes s) :=
  (readOrBreak_writes n s).andThenWrites fun v t _ => by
    cases v <;> exact .refl

theorem writeField_writes {n : Nat} (v : BitVec n) (s : State) : (writeField v s).EndsIn (Writes s) := by
  obtain ⟨h, -⟩ | ⟨h, -⟩ := writeField_cases v s <;> rw [h]
  · exact .single (.tail s)
  · exact .tail (.single (.tail s)) (.output _ _)

theorem flushOutput_writes (s : State) : (flushOutput s).EndsIn (Writes s) := by
  obtain ⟨h, -⟩ | ⟨h, -⟩ := flushOutput_cases s <;> rw [h]
  · exact .single (.tail s)
  · exact .tail (.single (.tail s)) (.output _ _)

theorem writeBits_writes (c : Bits) (s : State) : (writeBits c s).EndsIn (Writes s) := by
  obtain h | ⟨j, -, h⟩ := writeBits_cases c s <;> rw [h]
  · exact .tail (.single (.draws _ s)) (.output c _)
  · exact .tail (.single (.draws _ s)) (.output (c.take j) _)

theorem requireTree_writes (s : State) : (requireTree s).EndsIn (Writes s) := by
  obtain ⟨h, -⟩ | ⟨t, h, -⟩ := requireTree_cases s <;> rw [h] <;> exact .refl

theorem requireCodes_writes (s : State) : (requireCodes s).EndsIn (Writes s) := by
  obtain ⟨h, -⟩ | ⟨h, -⟩ := requireCodes_cases s <;> rw [h] <;> exact .refl

theorem requireSymbol_writes (v : BitVec 9) (s : State) : (requireSymbol v s).EndsIn (Writes s) := by
  cases h : symbolOf v <;> simp [requireSymbol, h, Relation.ReflTransGen.refl]

theorem countByte_writes (b : Byte) (s : State) : (countByte b s).EndsIn (Writes s) := by
  obtain ⟨h, -⟩ | ⟨h, -⟩ := countByte_cases b s <;> rw [h]
  · exact .refl
  · exact .single (.count b _ s)

theorem emitSymbol_writes (x : Symbol) (s : State) : (emitSymbol x s).EndsIn (Writes s) := by
  obtain ⟨h, -⟩ | ⟨c, h, -⟩ := emitSymbol_cases x s <;> rw [h]
  · exact .refl
  · exact writeBits_writes c s

/-! ### The bodies -/

theorem freqInitBody_writes (s : State) : (freqInitBody s).EndsIn (Writes s) := .single (.freqInit s)

theorem inResetBody_writes (s : State) : (inResetBody s).EndsIn (Writes s) := .single (.rewind s)

theorem magicWriteBody_writes (s : State) : (magicWriteBody s).EndsIn (Writes s) := writeField_writes _ s

theorem freqScanTurn_writes (s : State) : (freqScanTurn s).EndsIn (Writes s) :=
  (readOrBreak_writes 8 s).andThenWrites fun b t _ => by
    cases b with
    | none => exact .refl
    | some b => exact (countByte_writes b t).andThenWrites fun _ _ _ => .refl

theorem freqScanBody_writes (s : State) : (freqScanBody s).EndsIn (Writes s) :=
  repeatWhile_writes freqScanTurn_writes _ s

theorem freqReadBody_writes (v : BitVec 9) (s : State) : (freqReadBody v s).EndsIn (Writes s) :=
  (requireSymbol_writes v s).andThenWrites fun _ t _ => .single (.result _ _ t)

/-- A tree is built only where the merges leave one node, and it is that node's (R150). -/
theorem finalHeap_of_buildTree {freq : Vector Word 257} {t : Tree} (h : buildTree freq = some t) :
    ∃ x, finalHeap freq = [x] ∧ x.tree = t := by
  unfold buildTree at h
  split at h <;> cases h
  exact ⟨_, ‹_›, rfl⟩

theorem treeBuildBody_writes (s : State) : (treeBuildBody s).EndsIn (Writes s) := by
  unfold treeBuildBody
  split
  · trivial
  · rename_i t h
    obtain ⟨x, hx, -⟩ := finalHeap_of_buildTree h
    rw [hx]
    exact .single (.build t _ s h)

theorem requireTree_eq_done {s u : State} {t : Tree} (h : requireTree s = .done t u) : s.tree = some t ∧ u = s := by
  obtain ⟨h', -⟩ | ⟨t', h', ht⟩ := requireTree_cases s <;> rw [h'] at h <;> cases h
  exact ⟨ht, rfl⟩

theorem codeDeriveBody_writes (s : State) : (codeDeriveBody s).EndsIn (Writes s) :=
  (requireTree_writes s).andThenWrites fun t u h => by
    obtain ⟨ht, rfl⟩ := requireTree_eq_done h
    exact .single (.derive t u ht)

theorem codeReadBody_writes (v : BitVec 9) (k : BitVec 3) (s : State) : (codeReadBody v k s).EndsIn (Writes s) :=
  (requireSymbol_writes v s).andThenWrites fun x t _ => (requireCodes_writes t).andThenWrites fun _ u _ => by
    cases u.codeFor x <;> exact .single (.result _ _ u)

theorem writeTree_writes (t : Tree) (s : State) : (writeTree t s).EndsIn (Writes s) := by
  induction t generalizing s with
  | leaf x => exact (writeField_writes _ s).andThenWrites fun _ t _ => writeField_writes _ t
  | node l r ihl ihr =>
    exact (writeField_writes _ s).andThenWrites fun _ t _ => (ihl t).andThenWrites fun _ u _ => ihr u

theorem hdrWriteBody_writes (s : State) : (hdrWriteBody s).EndsIn (Writes s) :=
  (requireTree_writes s).andThenWrites fun t u _ => writeTree_writes t u

theorem magicReadBody_writes (s : State) : (magicReadBody s).EndsIn (Writes s) :=
  (readOrRaise_writes 32 _ s).andThenWrites fun v t _ => by split <;> exact .refl

theorem encSymBody_writes (v : BitVec 9) (s : State) : (encSymBody v s).EndsIn (Writes s) :=
  (requireSymbol_writes v s).andThenWrites fun x t _ =>
    (requireCodes_writes t).andThenWrites fun _ u _ => emitSymbol_writes x u

theorem encPassTurn_writes (s : State) : (encPassTurn s).EndsIn (Writes s) :=
  (readOrBreak_writes 8 s).andThenWrites fun b t _ => by
    cases b with
    | none => exact .refl
    | some b => exact (emitSymbol_writes _ t).andThenWrites fun _ _ _ => .refl

theorem encPassBody_writes (s : State) : (encPassBody s).EndsIn (Writes s) :=
  (requireCodes_writes s).andThenWrites fun _ t _ =>
    (repeatWhile_writes encPassTurn_writes _ t).andThenWrites fun _ u _ => emitSymbol_writes _ u

/-! ### The decoder -/

/-- Everything asking for the node at DPATH can do (R108). -/
theorem currentNode_cases (s : State) :
    currentNode s = .stuck .pathOutsideTree ∨
    ∃ t n, currentNode s = .done n s ∧ s.tree = some t ∧ subtree t s.dpath = some n := by
  cases ht : s.tree with
  | none => simp [currentNode, ht]
  | some t => cases hn : subtree t s.dpath <;> simp [currentNode, ht, hn]

theorem settleLeaf_writes (x : Symbol) (t : Tree) (s : State) (h : s.tree = some t) :
    (settleLeaf x s).EndsIn (Writes s) := by
  unfold settleLeaf
  split
  · exact .tail (.single (.settle .done t s (.inr rfl) h)) (.result _ _ _)
  · exact (writeField_writes _ _).after (.tail (.single (.settle .atRoot t s (.inl rfl) h)) (.result _ _ _))

/-- Arriving at the node of a path, from a state whose own DPATH does not matter. -/
theorem arriveAt_writes (p : Bits) (t n : Tree) (s : State) (h : s.tree = some t) (hp : subtree t p = some n) :
    (arriveAt n { s with dpath := p }).EndsIn (Writes s) := by
  cases n with
  | leaf x => exact settleLeaf_writes x t s h
  | node l r => exact .tail (.single (.descend p t l r s h hp)) (.result _ _ _)

theorem decStep_writes (s : State) : (decStep s).EndsIn (Writes s) := by
  unfold decStep
  obtain h | ⟨t, n, h, ht, -⟩ := currentNode_cases s <;> rw [h]
  · trivial
  cases n with
  | leaf x => exact settleLeaf_writes x t s ht
  | node l r =>
    refine (readOrRaise_writes 1 _ s).andThenWrites fun b u _ => ?_
    obtain h | ⟨t, m, h, ht, hm⟩ := currentNode_cases { u with dpath := u.dpath ++ [b == 1] } <;> rw [h]
    · trivial
    · exact arriveAt_writes _ t m u ht hm

theorem requireArmed_writes (s : State) : (requireArmed s).EndsIn (Writes s) := by
  unfold requireArmed
  split <;> exact .refl

theorem decRestartBody_writes (s : State) : (decRestartBody s).EndsIn (Writes s) :=
  (requireTree_writes s).andThenWrites fun t u h => by
    obtain ⟨ht, rfl⟩ := requireTree_eq_done h
    exact .single (.settle .atRoot t u (.inl rfl) ht)

theorem decBitBody_writes (s : State) : (decBitBody s).EndsIn (Writes s) :=
  (requireArmed_writes s).andThenWrites fun _ t _ => decStep_writes t

theorem decSymTurn_writes (s : State) : (decSymTurn s).EndsIn (Writes s) :=
  (decStep_writes s).andThenWrites fun _ _ _ => .refl

theorem decSymBody_writes (s : State) : (decSymBody s).EndsIn (Writes s) :=
  (requireArmed_writes s).andThenWrites fun _ t _ => repeatWhile_writes decSymTurn_writes _ t

theorem decPassTurn_writes (s : State) : (decPassTurn s).EndsIn (Writes s) :=
  (decStep_writes s).andThenWrites fun _ _ _ => .refl

theorem decPassBody_writes (s : State) : (decPassBody s).EndsIn (Writes s) :=
  (requireArmed_writes s).andThenWrites fun _ t _ => repeatWhile_writes decPassTurn_writes _ t

/-! ### The header reader -/

/-- A count of nodes below the capacity has room for one more. -/
theorem toNat_succ_of_ne_nodeCap {n : BitVec 10} (h : n.toNat ≤ 513) (hne : n ≠ 513) :
    (n + 1).toNat = n.toNat + 1 ∧ (n + 1).toNat ≤ 513 := by
  have hlt : n.toNat < 513 := lt_of_le_of_ne h fun he => hne (BitVec.eq_of_toNat_eq he)
  have hs : (n + 1).toNat = n.toNat + 1 := BitVec.toNat_add_of_lt (by simp; omega)
  exact ⟨hs, by omega⟩

theorem readOrRaise_eq_done {n : Nat} {e : ErrorKind} {s u : State} {v : BitVec n} (h : readOrRaise n e s = .done v u) :
    u = { s with portDraws := s.portDraws.tail, inPos := s.inPos + n } := by
  obtain ⟨h', -⟩ | ⟨h', -⟩ | ⟨h', -⟩ := readOrRaise_cases n e s <;> rw [h'] at h <;> cases h
  rfl

/-- What reading a node leaves of the reader's own state: the stack as it was, and one more count for each node. -/
theorem readNode_eq_done {fuel : Nat} {s u : State} {t : Tree} (h : readNode fuel s = .done t u)
    (hs : s.hdrCount.toNat ≤ 513) :
    u.hdrStack = s.hdrStack ∧ u.codesValid = s.codesValid ∧ u.hdrCount.toNat = s.hdrCount.toNat + treeSize t ∧
      u.hdrCount.toNat ≤ 513 := by
  induction fuel generalizing s u t with
  | zero => cases h
  | succ fuel ih =>
    unfold readNode at h
    split at h
    · cases h
    rename_i hne
    obtain ⟨hinc, hle⟩ := toNat_succ_of_ne_nodeCap hs hne
    obtain ⟨f, a, ha, h⟩ := Run.andThen_eq_done.mp h
    obtain rfl := readOrRaise_eq_done ha
    split at h
    · obtain ⟨l, b, hl, h⟩ := Run.andThen_eq_done.mp h
      obtain ⟨r, c, hr, h⟩ := Run.andThen_eq_done.mp h
      cases h
      obtain ⟨(hls : b.hdrStack = none :: s.hdrStack), (hlc : b.codesValid = s.codesValid),
        (hln : b.hdrCount.toNat = (s.hdrCount + 1).toNat + treeSize l), hlm⟩ := ih hl hle
      obtain ⟨(hrs : c.hdrStack = some l :: b.hdrStack.drop 1), (hrc : c.codesValid = b.codesValid),
        (hrn : c.hdrCount.toNat = b.hdrCount.toNat + treeSize r), hrm⟩ := ih hr hlm
      refine ⟨by simp [hrs, hls], hrc.trans hlc, ?_, hrm⟩
      simp only [popPending_hdrCount, treeSize]
      omega
    · obtain ⟨v, b, hb, h⟩ := Run.andThen_eq_done.mp h
      obtain rfl := readOrRaise_eq_done hb
      split at h <;> cases h
      exact ⟨rfl, rfl, hinc, hle⟩

theorem readNode_writes (fuel : Nat) (s : State) (hs : s.hdrStack.length ≤ s.hdrCount.toNat)
    (hn : s.hdrCount.toNat ≤ 513) : (readNode fuel s).EndsIn (Writes s) := by
  induction fuel generalizing s with
  | zero => exact .refl
  | succ fuel ih =>
    unfold readNode
    split
    · exact .refl
    rename_i hne
    obtain ⟨hinc, hle⟩ := toNat_succ_of_ne_nodeCap hn hne
    refine (readOrRaise_writes 1 _ s).andThenWrites fun f t ht => ?_
    obtain rfl := readOrRaise_eq_done ht
    split
    · have hpush : (none :: s.hdrStack).length ≤ (s.hdrCount + 1).toNat := by
        rw [List.length_cons]
        omega
      refine ((ih _ hpush hle).after (.single (.header _ _ _ hpush hle))).andThenWrites fun l u hl => ?_
      obtain ⟨(hus : u.hdrStack = none :: s.hdrStack), -,
        (hun : u.hdrCount.toNat = (s.hdrCount + 1).toNat + treeSize l), hum⟩ := readNode_eq_done hl hle
      have hset : (some l :: u.hdrStack.drop 1).length ≤ u.hdrCount.toNat := by
        rw [hus, List.drop_one, List.tail_cons, List.length_cons]
        omega
      have hw : Write u (setPendingLeft l u) := .header _ _ u hset hum
      refine ((ih (setPendingLeft l u) hset hum).after (.single hw)).andThenWrites fun r v hr => ?_
      obtain ⟨(hvs : v.hdrStack = some l :: u.hdrStack.drop 1), -,
        (hvn : v.hdrCount.toNat = u.hdrCount.toNat + treeSize r), hvm⟩ := readNode_eq_done hr hum
      have hpop : (v.hdrStack.drop 1).length ≤ v.hdrCount.toNat := by
        rw [List.length_drop, hvs]
        omega
      exact .single (.header _ _ v hpop hvm)
    · refine (readOrRaise_writes 9 _ _).andThenWrites fun v u hu => ?_
      obtain rfl := readOrRaise_eq_done hu
      split
      · exact .refl
      · exact .single (.header _ _ _ (by rw [hinc]; exact Nat.le_succ_of_le hs) hle)

theorem legalTree_iff {t : Tree} : legalTree t = true ↔ treeSize t ≤ 513 ∧ rootLegal t = true := by
  rw [legalTree, Bool.and_eq_true, decide_eq_true_eq]
  rfl

theorem acceptTree_writes (t : Tree) (s : State) (ht : treeSize t ≤ 513) (hc : s.codesValid = false) :
    (acceptTree t s).EndsIn (Writes s) := by
  cases t with
  | leaf x =>
    by_cases hx : x = Config.eos
    · simpa [acceptTree, hx] using .single (.accept _ s (by decide) hc)
    · simpa [acceptTree, hx] using .refl
  | node l r => exact .single (.accept _ s (legalTree_iff.mpr ⟨ht, rfl⟩) hc)

theorem hdrReadBody_writes (s : State) : (hdrReadBody s).EndsIn (Writes s) :=
  ((readNode_writes _ (startHeader s) (by simp) (by simp)).after (.single (.startHeader s))).andThenWrites fun t u h => by
    obtain ⟨-, hc, (hn : u.hdrCount.toNat = 0 + treeSize t), hm⟩ := readNode_eq_done h (by simp)
    exact acceptTree_writes t u (by omega) hc

/-! ### Commands -/

/-- Every sub-operation of every command but SRESET and CLRERR ends, at its end or where it raises, some writes
later. -/
theorem commandSteps_writes {i : Instr} (hs : i ≠ .sreset) (hc : i ≠ .clrerr) :
    ∀ f ∈ commandSteps i, ∀ s, (f s).EndsIn (Writes s) := by
  cases i with
  | sreset => exact absurd rfl hs
  | clrerr => exact absurd rfl hc
  | nop => exact List.forall_mem_singleton.mpr fun s => .refl
  | freqInit => exact List.forall_mem_singleton.mpr freqInitBody_writes
  | freqAdd b => exact List.forall_mem_singleton.mpr (countByte_writes b)
  | freqScan => exact List.forall_mem_singleton.mpr freqScanBody_writes
  | freqRead x => exact List.forall_mem_singleton.mpr (freqReadBody_writes x)
  | treeBuild => exact List.forall_mem_singleton.mpr treeBuildBody_writes
  | codeDerive => exact List.forall_mem_singleton.mpr codeDeriveBody_writes
  | codeRead x k => exact List.forall_mem_singleton.mpr (codeReadBody_writes x k)
  | magicWrite => exact List.forall_mem_singleton.mpr magicWriteBody_writes
  | hdrWrite => exact List.forall_mem_singleton.mpr hdrWriteBody_writes
  | magicRead => exact List.forall_mem_singleton.mpr magicReadBody_writes
  | hdrRead => exact List.forall_mem_singleton.mpr hdrReadBody_writes
  | encSym x => exact List.forall_mem_singleton.mpr (encSymBody_writes x)
  | encPass => exact List.forall_mem_singleton.mpr encPassBody_writes
  | decRestart => exact List.forall_mem_singleton.mpr decRestartBody_writes
  | decBit => exact List.forall_mem_singleton.mpr decBitBody_writes
  | decSym => exact List.forall_mem_singleton.mpr decSymBody_writes
  | decPass => exact List.forall_mem_singleton.mpr decPassBody_writes
  | inReset => exact List.forall_mem_singleton.mpr inResetBody_writes
  | outFlush => exact List.forall_mem_singleton.mpr flushOutput_writes
  | compress =>
    simp only [commandSteps, compressSteps, List.forall_mem_cons]
    exact ⟨freqInitBody_writes, freqScanBody_writes, treeBuildBody_writes, codeDeriveBody_writes,
      magicWriteBody_writes, hdrWriteBody_writes, inResetBody_writes, encPassBody_writes, flushOutput_writes, by simp⟩
  | decompress =>
    simp only [commandSteps, decompressSteps, List.forall_mem_cons]
    exact ⟨magicReadBody_writes, hdrReadBody_writes, decPassBody_writes, flushOutput_writes, by simp⟩

/-- Everything a command can do, as its next state shows it: SRESET's reset, CLRERR's return from the error state, or
some writes and then the normal end or the abort. -/
theorem exec_cases {i : Instr} {s t : State} (h : exec i s = .next t) :
    (i = .sreset ∧ t = s.resetEngine) ∨ (i = .clrerr ∧ t = s.clearError.finish) ∨
    (i ≠ .sreset ∧ i ≠ .clrerr ∧ ∃ u, Writes s u ∧ (t = u.finish ∨ ∃ e, t = u.abort e)) := by
  by_cases hs : i = .sreset
  · subst hs
    exact .inl ⟨rfl, by injection h with h; exact h.symm⟩
  by_cases hc : i = .clrerr
  · subst hc
    exact .inr (.inl ⟨rfl, by injection h with h; exact h.symm⟩)
  have hw : (runSteps (commandSteps i) s).EndsIn (Writes s) :=
    runSteps_endsIn (fun f hf u hu => (commandSteps_writes hs hc f hf u).after hu) .refl
  rw [exec_eq_endCommand] at h
  obtain ⟨u, hu, rfl⟩ | ⟨e, u, hu, rfl⟩ := endCommand_eq_next.mp h <;> rw [hu] at hw
  · exact .inr (.inr ⟨hs, hc, u, hw, .inl rfl⟩)
  · exact .inr (.inr ⟨hs, hc, u, hw, .inr ⟨e, rfl⟩⟩)

/-- A property that every move of the host and the engine's turn keep, and that does not see the coming moves, is kept
by every step. -/
theorem step_keeps (P : State → Prop) (hq : ∀ s ms, P s → P { s with hostMoves := ms })
    (hm : ∀ m s t, hostMove m s = .next t → P s → P t) {s t : State} (h : step s = .next t) (hs : P s) : P t := by
  obtain ⟨-, he⟩ | ⟨m, rest, -, hr⟩ := step_cases h
  · exact hm .wait s t he hs
  · exact hm m _ t hr (hq s rest hs)

end Sys2Proof.Machine
end

section
/-! PROOF. What the tree builder's merges keep of the heap's leaves, and that the tree they make is one that TREE may
hold (R39, R150, R151). -/

namespace Sys2Proof.Machine

theorem takeMin_eq_none {p : List HeapNode} : takeMin p = none ↔ p = [] := by
  cases p with
  | nil => simp [takeMin]
  | cons x xs =>
    unfold takeMin
    split
    · simp
    · split <;> simp

/-- Removing the least node only takes it out: nothing else is lost or added. -/
theorem takeMin_perm {p rest : List HeapNode} {m : HeapNode} (h : takeMin p = some (m, rest)) : p.Perm (m :: rest) := by
  induction p generalizing m rest with
  | nil => cases h
  | cons x xs ih =>
    unfold takeMin at h
    split at h
    · rename_i hxs
      cases h
      rw [takeMin_eq_none.mp hxs]
    · rename_i m' rest' hxs
      have hp := (ih hxs).cons x
      split at h <;> cases h
      · exact hp.trans (.swap _ _ _)
      · rfl

/-- The leaf symbols of the trees in a heap. -/
def heapSymbols (p : List HeapNode) : List Symbol := p.flatMap fun x => treeLeaves x.tree

/-- The merges of R150 keep the leaf symbols of the heap. -/
theorem mergeAll_heapSymbols (fuel next : Nat) (p : List HeapNode) :
    (heapSymbols (mergeAll fuel next p)).Perm (heapSymbols p) := by
  induction fuel generalizing next p with
  | zero => rfl
  | succ fuel ih =>
    unfold mergeAll
    split
    · rfl
    rename_i a p₁ ha
    split
    · rfl
    rename_i b p₂ hb
    have hp : p.Perm (a :: b :: p₂) := (takeMin_perm ha).trans ((takeMin_perm hb).cons a)
    have hm : heapSymbols (p₂ ++ [mergeNodes next a b]) = heapSymbols p₂ ++ heapSymbols [a, b] := by
      simp [heapSymbols, mergeNodes, treeLeaves]
    have hc : heapSymbols [a, b] ++ heapSymbols p₂ = heapSymbols (a :: b :: p₂) := by simp [heapSymbols]
    have hab : (heapSymbols (p₂ ++ [mergeNodes next a b])).Perm (heapSymbols (a :: b :: p₂)) := by
      rw [hm, ← hc]
      exact List.perm_append_comm
    exact (ih _ _).trans (hab.trans (hp.flatMap_right _).symm)

theorem heapSymbols_leafNodes (freq : Vector Word 257) :
    heapSymbols (leafNodes freq) = allSymbols.filter fun x => freq[x] ≠ 0 := by
  simp [heapSymbols, leafNodes, treeLeaves, List.flatMap_map, ← List.map_eq_flatMap]

/-- The leaves of the built tree are the symbols with a count, each once (R151). -/
theorem buildTree_leaves {freq : Vector Word 257} {t : Tree} (h : buildTree freq = some t) :
    (treeLeaves t).Perm (allSymbols.filter fun x => freq[x] ≠ 0) := by
  obtain ⟨x, hx, rfl⟩ := finalHeap_of_buildTree h
  have hp : (heapSymbols (finalHeap freq)).Perm (heapSymbols (leafNodes freq)) := mergeAll_heapSymbols _ _ _
  rw [hx, heapSymbols_leafNodes] at hp
  simpa [heapSymbols] using hp

/-- A full tree has one more leaf than internal nodes (R11). -/
theorem treeSize_add_one (t : Tree) : treeSize t + 1 = 2 * (treeLeaves t).length := by
  induction t with
  | leaf x => rfl
  | node l r ihl ihr =>
    simp only [treeSize, treeLeaves, List.length_append]
    omega

/-- With the sentinel counted, the built tree is one that TREE may hold (R39, R151). -/
theorem buildTree_legal {freq : Vector Word 257} {t : Tree} (hf : freq[Config.eos] = 1) (h : buildTree freq = some t) :
    legalTree t = true := by
  have hp := buildTree_leaves h
  have hlen : (treeLeaves t).length ≤ 257 := by
    calc (treeLeaves t).length = (allSymbols.filter fun x => freq[x] ≠ 0).length := hp.length_eq
      _ ≤ allSymbols.length := List.length_filter_le _ _
      _ = 257 := List.length_finRange
  refine legalTree_iff.mpr ⟨by have := treeSize_add_one t; omega, ?_⟩
  cases t with
  | node l r => rfl
  | leaf x =>
    have hmem : Config.eos ∈ treeLeaves (.leaf x) := by
      rw [hp.mem_iff, List.mem_filter]
      exact ⟨List.mem_finRange _, by rw [hf]; decide⟩
    exact beq_iff_eq.mpr (List.mem_singleton.mp hmem).symm

end Sys2Proof.Machine
end

section
/-! PROOF. The invariants of every step: FREQ[256] = 1 (R38), and `Inv`. -/

namespace Sys2Proof.Machine

/-! ### FREQ[256] = 1 -/

theorem freqInitial_eos : freqInitial[Config.eos] = 1 := Vector.getElem_set_self (by decide)

theorem Write.count_eos {s t : State} (h : Write s t) (hs : s.count Config.eos = 1) : t.count Config.eos = 1 := by
  cases h with
  | freqInit => exact freqInitial_eos
  | count b v =>
    have hb : (byteSymbol b).val ≠ 256 := b.isLt.ne
    exact (Vector.getElem_set_ne (byteSymbol b).isLt (by decide) hb).trans hs
  | _ => exact hs

theorem exec_count_eos {i : Instr} {s t : State} (h : exec i s = .next t) (hs : s.count Config.eos = 1) :
    t.count Config.eos = 1 := by
  obtain ⟨-, rfl⟩ | ⟨-, rfl⟩ | ⟨-, -, u, hw, rfl | ⟨e, rfl⟩⟩ := exec_cases h
  · exact freqInitial_eos
  · exact hs
  · exact hw.keeps (·.count Config.eos = 1) (fun _ _ => Write.count_eos) hs
  · exact hw.keeps (·.count Config.eos = 1) (fun _ _ => Write.count_eos) hs

theorem engineStep_count_eos {s t : State} (h : engineStep s = .next t) (hs : s.count Config.eos = 1) :
    t.count Config.eos = 1 := by
  obtain ⟨-, rfl⟩ | ⟨i, -, -, he⟩ | ⟨_, -, -, rfl⟩ := engineStep_cases h
  · exact hs
  · exact exec_count_eos he hs
  · exact hs

theorem resetInput_count_eos (subOps portOps : Nat) (s : State) :
    (resetInput subOps portOps s).count Config.eos = 1 := by
  obtain h | ⟨i, -, -, h⟩ := resetInput_cases subOps portOps s <;> rw [h] <;> exact freqInitial_eos

theorem hostMove_count_eos {m : HostMove} {s t : State} (h : hostMove m s = .next t) (hs : s.count Config.eos = 1) :
    t.count Config.eos = 1 := by
  obtain ⟨-, he⟩ | ⟨k, j, -, rfl⟩ | ⟨_, w, -, rfl⟩ | ⟨_, _, _, -, -, rfl⟩ | ⟨_, _, _, _, -, rfl⟩ | ⟨_, -, -, rfl⟩ |
    ⟨-, -, rfl⟩ := hostMove_cases h
  · exact engineStep_count_eos he hs
  · exact resetInput_count_eos k j s
  · obtain ⟨ho, -⟩ | ⟨ho, -⟩ := offerCommand_cases w s <;> rw [ho] <;> exact hs
  all_goals exact hs

/-- Settles O54: FREQ[256] is 1 at reset and after FREQ_INIT, and no write of a command and no move of the host
changes it (R38). -/
theorem sentinelCountStaysOne : Obligations.SentinelCountStaysOne :=
  ⟨freqInitial_eos, fun _ => ⟨_, rfl, freqInitial_eos⟩, fun _ _ hs h =>
    step_keeps (·.count Config.eos = 1) (fun _ _ => id) (fun _ _ _ => hostMove_count_eos) h hs⟩

/-! ### The invariant -/

/-- Each kind of write keeps the invariant; most fields do not see it. -/
theorem Write.inv {s t : State} (h : Write s t) (hi : Inv s) : Inv t := by
  have heos := h.count_eos hi.sentinelCount
  cases h with
  | draws n => exact { hi with }
  | consume n _ hn => exact { hi with cursorInside := hn }
  | rewind => exact { hi with cursorInside := Nat.zero_le _ }
  | output c => exact { hi with }
  | freqInit => exact { hi with sentinelCount := heos }
  | count b v => exact { hi with sentinelCount := heos }
  | result r c => exact { hi with }
  | derive t _ ht => exact { hi with codesCurrent := fun _ => ⟨t, ht, rfl⟩ }
  | build t x _ ht =>
    exact { hi with
      treeLegal := fun u hu => by cases hu; exact buildTree_legal hi.sentinelCount ht
      unarmedIffNoTree := by simp [State.treeValid]
      pathEmpty := fun _ => rfl
      pathInternal := by simp
      codesCurrent := by simp
      heapFits := by simp [Config.heapCap] }
  | settle d t _ hd ht =>
    exact { hi with
      unarmedIffNoTree := by obtain rfl | rfl := hd <;> simp [State.treeValid, ht]
      pathEmpty := fun _ => rfl
      pathInternal := by obtain rfl | rfl := hd <;> simp }
  | descend p t l r _ ht hp =>
    exact { hi with
      unarmedIffNoTree := by simp [State.treeValid, ht]
      pathEmpty := fun hne => absurd rfl hne
      pathInternal := fun _ => ⟨t, l, r, ht, hp⟩ }
  | startHeader =>
    exact { hi with
      treeLegal := by simp
      unarmedIffNoTree := by simp [State.treeValid]
      pathEmpty := fun _ => rfl
      pathInternal := by simp
      codesCurrent := by simp
      stackFits := by simp }
  | header st n _ hst hn => exact { hi with stackFits := ⟨hst, hn⟩ }
  | accept t _ ht hc =>
    exact { hi with
      treeLegal := fun u hu => by cases hu; exact ht
      unarmedIffNoTree := by simp [State.treeValid]
      pathEmpty := fun _ => rfl
      pathInternal := by simp
      codesCurrent := by simp [hc] }

theorem Inv.finish {s : State} (hi : Inv s) : Inv s.finish := { hi with errorPending := by simp }

theorem errorCode_ne_zero (e : ErrorKind) : errorCode e ≠ 0 := by cases e <;> decide

theorem errorCode_toNat_le (e : ErrorKind) : (errorCode e).toNat ≤ 10 := by cases e <;> decide

theorem Inv.abort {s : State} (hi : Inv s) (e : ErrorKind) : Inv (s.abort e) :=
  { hi with
    errCodeZero := iff_of_false (errorCode_ne_zero e) (by simp)
    errCodeLegal := errorCode_toNat_le e
    errorPending := by simp }

theorem Inv.clearError {s : State} (hi : Inv s) : Inv s.clearError :=
  { hi with errCodeZero := by simp, errCodeLegal := by simp, errorPending := by simp }

/-- The reset state meets the invariant wherever the cursor stands inside the input. -/
theorem inv_resetEngine {s : State} (hc : s.inPos ≤ s.inBits.length) : Inv s.resetEngine where
  sentinelCount := freqInitial_eos
  treeLegal := by simp
  unarmedIffNoTree := by simp [State.treeValid]
  pathEmpty _ := rfl
  pathInternal := by simp
  codesCurrent := by simp
  cursorInside := hc
  errCodeZero := by simp
  errCodeLegal := by simp
  errorPending := by simp
  heapFits := by simp
  stackFits := by simp

theorem exec_inv {i : Instr} {s t : State} (h : exec i s = .next t) (hi : Inv s) : Inv t := by
  obtain ⟨-, rfl⟩ | ⟨-, rfl⟩ | ⟨-, -, u, hw, rfl | ⟨e, rfl⟩⟩ := exec_cases h
  · exact inv_resetEngine hi.cursorInside
  · exact hi.clearError.finish
  · exact (hw.keeps Inv (fun _ _ => Write.inv) hi).finish
  · exact (hw.keeps Inv (fun _ _ => Write.inv) hi).abort e

theorem engineStep_inv {s t : State} (h : engineStep s = .next t) (hi : Inv s) : Inv t := by
  obtain ⟨-, rfl⟩ | ⟨i, -, -, he⟩ | ⟨_, -, -, rfl⟩ := engineStep_cases h
  · exact hi
  · exact exec_inv he hi
  · exact hi.abort _

/-! ### The cursor of an abandoned command -/

/-- A property of every state a run can stop in. -/
theorem stoppedAt_of_endsIn {P : State → Prop} {s : State} {r : Run Unit} (hr : r.EndsIn P) (hs : P s) :
    P (stoppedAt s r) := by
  cases r with
  | done a t => exact hr
  | raised e t => exact hr
  | stuck x => exact hs

/-- A property that the sub-operations keep and that does not see the draws holds where reset abandons them. -/
theorem abandonedAt_keeps (P : State → Prop) (hd : ∀ s d, P s → P { s with portDraws := d })
    {steps : List (State → Run Unit)} (hf : ∀ f ∈ steps, ∀ s, P s → (f s).EndsIn P) (subOps portOps : Nat) {s : State}
    (hs : P s) : P (abandonedAt steps subOps portOps s) := by
  have hr : (runSteps (steps.take subOps) s).EndsIn P :=
    runSteps_endsIn (fun f hm => hf f (List.mem_of_mem_take hm)) hs
  obtain ⟨x, -, ha⟩ | ⟨e, t, ht, ha⟩ | ⟨t, ht, -, ha⟩ | ⟨t, k, f, u, ht, -, hk, rfl, ha⟩ :=
    abandonedAt_cases steps subOps portOps s <;> rw [ha]
  · exact hs
  · rw [ht] at hr
    exact hr
  · rw [ht] at hr
    exact hr
  · rw [ht] at hr
    have hc : P (cutPorts k t) := hd t _ hr
    exact hd _ _ (stoppedAt_of_endsIn (hf f (List.mem_of_getElem? hk) _ hc) hc)

theorem Write.cursor_inside {s t : State} (h : Write s t) (hs : s.inPos ≤ s.inBits.length) :
    t.inPos ≤ t.inBits.length := by
  cases h with
  | consume n _ hn => exact hn
  | rewind => exact Nat.zero_le _
  | _ => exact hs

theorem commandSteps_cursor_inside (i : Instr) : ∀ f ∈ commandSteps i, ∀ s, s.inPos ≤ s.inBits.length →
    (f s).EndsIn fun t => t.inPos ≤ t.inBits.length := by
  by_cases hs : i = .sreset
  · subst hs
    exact List.forall_mem_singleton.mpr fun _ h => h
  by_cases hc : i = .clrerr
  · subst hc
    exact List.forall_mem_singleton.mpr fun _ h => h
  intro f hf s h
  exact (commandSteps_writes hs hc f hf s).mono fun t hw =>
    hw.keeps (fun u => u.inPos ≤ u.inBits.length) (fun _ _ => Write.cursor_inside) h

theorem resetInput_inv (subOps portOps : Nat) {s : State} (hi : Inv s) : Inv (resetInput subOps portOps s) := by
  obtain h | ⟨i, -, -, h⟩ := resetInput_cases subOps portOps s <;> rw [h]
  · exact inv_resetEngine hi.cursorInside
  · exact inv_resetEngine (abandonedAt_keeps (fun u => u.inPos ≤ u.inBits.length) (fun _ _ => id)
      (commandSteps_cursor_inside i) subOps portOps hi.cursorInside)

theorem offerCommand_inv (w : Word) {s : State} (hi : Inv s) : Inv (offerCommand w s) := by
  obtain ⟨h, -⟩ | ⟨h, -, hp⟩ := offerCommand_cases w s <;> rw [h]
  · exact { hi with }
  · exact { hi with errorPending := fun _ => hp }

theorem hostMove_inv {m : HostMove} {s t : State} (h : hostMove m s = .next t) (hi : Inv s) : Inv t := by
  obtain ⟨-, he⟩ | ⟨k, j, -, rfl⟩ | ⟨_, w, -, rfl⟩ | ⟨_, _, _, -, -, rfl⟩ | ⟨_, _, _, _, -, rfl⟩ | ⟨_, -, -, rfl⟩ |
    ⟨-, -, rfl⟩ := hostMove_cases h
  · exact engineStep_inv he hi
  · exact resetInput_inv k j hi
  · exact offerCommand_inv w hi
  · exact hi
  · exact { hi with }
  · exact { hi with cursorInside := Nat.zero_le _ }
  · exact { hi with }

/-- Settles O56: each write of a command keeps the invariant, and so do the ends of a command and the host's moves. -/
theorem stepKeepsTheInvariant : Obligations.StepKeepsTheInvariant :=
  fun _ _ hi h => step_keeps Inv (fun _ _ hi => { hi with }) (fun _ _ _ => hostMove_inv) h hi

/-- Settles O55: the state at reset is the reset of itself, its cursor at the start of the input. -/
theorem resetMeetsTheInvariant : Obligations.ResetMeetsTheInvariant := by
  have hc : State.reset.inPos ≤ State.reset.inBits.length := Nat.zero_le _
  exact inv_resetEngine hc

end Sys2Proof.Machine
end

section
/-! PROOF. Errors do not nest (R27, R28, R277 to R279). -/

namespace Sys2Proof.Machine

theorem Write.err_cmdDropped {s t : State} (h : Write s t) : t.err = s.err ∧ t.cmdDropped = s.cmdDropped := by
  cases h <;> exact ⟨rfl, rfl⟩

theorem Writes.err_cmdDropped {s t : State} (h : Writes s t) : t.err = s.err ∧ t.cmdDropped = s.cmdDropped :=
  h.keeps (fun u => u.err = s.err ∧ u.cmdDropped = s.cmdDropped)
    (fun _ _ hw ⟨he, hd⟩ => ⟨hw.err_cmdDropped.1.trans he, hw.err_cmdDropped.2.trans hd⟩) ⟨rfl, rfl⟩

/-- What may be pending in the error state is SRESET or CLRERR (R277). -/
theorem decodeWord_of_passesInError {w : Word} (h : passesInError w = true) :
    decodeWord w = .command .clrerr ∨ decodeWord w = .command .sreset := by
  have hw : w = 0x00000001 ∨ w = 0x00000002 := by simpa [passesInError] using h
  obtain rfl | rfl := hw
  · exact .inr (by decide)
  · exact .inl (by decide)

/-- The error recorded in `s` and its mark of a dropped write are still there in `t` (R27, R28). -/
def ErrorKept (s t : State) : Prop :=
  (s.err = true → t.err = true ∧ t.errCode = s.errCode) ∧ (s.cmdDropped = true → t.cmdDropped = true)

/-- The pending command takes the error away: it is CLRERR or SRESET. -/
def ClearingPending (s : State) : Prop :=
  s.busy = true ∧ (decodeWord s.pend = .command .clrerr ∨ decodeWord s.pend = .command .sreset)

theorem Inv.clearingPending {s : State} (hi : Inv s) (hb : s.busy = true) (he : s.err = true) : ClearingPending s :=
  ⟨hb, decodeWord_of_passesInError (hi.errorPending hb he)⟩

/-- The engine's turn takes no error away unless CLRERR or SRESET is pending, and no other command runs in the error
state. -/
theorem engineStep_errorKept {s t : State} (h : engineStep s = .next t) (hi : Inv s) :
    ErrorKept s t ∨ (ClearingPending s ∧ t.err = false) := by
  obtain ⟨-, rfl⟩ | ⟨i, hb, hi', he⟩ | ⟨why, hb, hw, rfl⟩ := engineStep_cases h
  · exact .inl ⟨fun h => ⟨h, rfl⟩, id⟩
  · obtain ⟨rfl, rfl⟩ | ⟨rfl, rfl⟩ | ⟨hs, hc, u, hu, ht⟩ := exec_cases he
    · exact .inr ⟨⟨hb, .inr hi'⟩, rfl⟩
    · exact .inr ⟨⟨hb, .inl hi'⟩, rfl⟩
    · have hn : ¬ ClearingPending s := by simp [ClearingPending, hi', hs, hc]
      refine .inl ⟨fun herr => absurd (hi.clearingPending hb herr) hn, fun hd => ?_⟩
      obtain rfl | ⟨e, rfl⟩ := ht <;> exact hu.err_cmdDropped.2.trans hd
  · have hn : ¬ ClearingPending s := by simp [ClearingPending, hw]
    exact .inl ⟨fun herr => absurd (hi.clearingPending hb herr) hn, id⟩

theorem offerCommand_errorKept (w : Word) (s : State) : ErrorKept s (offerCommand w s) := by
  obtain ⟨h, -⟩ | ⟨h, -⟩ := offerCommand_cases w s <;> rw [h]
  · exact ⟨fun he => ⟨he, rfl⟩, fun _ => rfl⟩
  · exact ⟨fun he => ⟨he, rfl⟩, id⟩

theorem hostMove_errorKept {m : HostMove} {s t : State} (h : hostMove m s = .next t) (hi : Inv s) :
    ErrorKept s t ∨ (t.err = false ∧ (ClearingPending s ∨ ∃ subOps portOps, m = .assertReset subOps portOps)) := by
  have same {u : State} (he : u.err = s.err) (hc : u.errCode = s.errCode) (hd : u.cmdDropped = s.cmdDropped) :
      ErrorKept s u := ⟨fun h => ⟨he.trans h, hc⟩, hd.trans⟩
  obtain ⟨-, he⟩ | ⟨k, j, rfl, rfl⟩ | ⟨_, w, -, rfl⟩ | ⟨_, _, _, -, -, rfl⟩ | ⟨_, _, _, _, -, rfl⟩ | ⟨_, -, -, rfl⟩ |
    ⟨-, -, rfl⟩ := hostMove_cases h
  · obtain hk | ⟨hp, he⟩ := engineStep_errorKept he hi
    · exact .inl hk
    · exact .inr ⟨he, .inl hp⟩
  · refine .inr ⟨?_, .inr ⟨k, j, rfl⟩⟩
    obtain h | ⟨i, -, -, h⟩ := resetInput_cases k j s <;> rw [h] <;> rfl
  · exact .inl (offerCommand_errorKept w s)
  all_goals exact .inl (same rfl rfl rfl)

theorem step_errorKept {s t : State} (h : step s = .next t) (hi : Inv s) :
    ErrorKept s t ∨
    (t.err = false ∧
      (ClearingPending s ∨ ∃ subOps portOps rest, s.hostMoves = .assertReset subOps portOps :: rest)) := by
  obtain ⟨-, he⟩ | ⟨m, rest, hm, hr⟩ := step_cases h
  · obtain hk | ⟨hp, he⟩ := engineStep_errorKept he hi
    · exact .inl hk
    · exact .inr ⟨he, .inl hp⟩
  · obtain hk | ⟨he, hp | ⟨k, j, rfl⟩⟩ := hostMove_errorKept hr { hi with }
    · exact .inl hk
    · exact .inr ⟨he, .inl hp⟩
    · exact .inr ⟨he, .inr ⟨k, j, rest, hm⟩⟩

/-- Settles O59: a step keeps the error and the mark of a dropped write as they are, or it is one of the three that
clear them. -/
theorem errorsDoNotNest : Obligations.ErrorsDoNotNest := by
  intro s t hi h
  obtain ⟨hk, hd⟩ | ⟨he, hc⟩ := step_errorKept h hi
  · exact ⟨fun he _ => (hk he).2, by simp_all⟩
  · exact ⟨by simp [he], fun _ => hc⟩

end Sys2Proof.Machine
end

section
/-! PROOF. The words of STATUS and the views, the register window, and the reset values (R22 to R36, R47, R49). -/

namespace Sys2Proof.Machine

/-! ### STATUS, TREE_INFO and DEC_STATE -/

/-- The fields of a word laid out as STATUS is (R25). -/
theorem statusLayout_fields (op : BitVec 8) (e : BitVec 4) (valid tree dropped err busy : Bool) :
    let w := (0 : BitVec 8) ++ op ++ (0 : BitVec 4) ++ e ++ (0 : BitVec 3) ++ BitVec.ofBool valid ++
      BitVec.ofBool tree ++ BitVec.ofBool dropped ++ BitVec.ofBool err ++ BitVec.ofBool busy
    (w.getLsbD 0 = busy ∧ w.getLsbD 1 = err ∧ w.getLsbD 2 = dropped ∧ w.getLsbD 3 = tree ∧ w.getLsbD 4 = valid) ∧
      w.extractLsb' 5 3 = 0 ∧ w.extractLsb' 8 4 = e ∧ w.extractLsb' 12 4 = 0 ∧ w.extractLsb' 16 8 = op ∧
      w.extractLsb' 24 8 = 0 := by
  constructor
  · simp only [BitVec.getLsbD_append]
    simp
  · simp (disch := omega) only [BitVec.extractLsb'_append_eq_of_le, BitVec.extractLsb'_append_eq_of_add_le,
      BitVec.extractLsb'_eq_self, Nat.reduceSub, and_self]

/-- Settles O10, from the layout of the word (R25). -/
theorem statusWordFields : Obligations.StatusWordFields := by
  intro s
  obtain ⟨⟨h0, h1, h2, h3, h4⟩, hx⟩ :=
    statusLayout_fields s.lastOp s.errCode s.codesValid s.treeValid s.cmdDropped s.err s.busy
  exact ⟨h0, h1, h2, h3, h4, hx⟩

/-- The fields of a word laid out as the views are (R35, R36): a count above `m` zero bits above a low field. -/
theorem viewLayout_fields (m : Nat) {n : Nat} (hi : BitVec 9) (lo : BitVec n) :
    let w := (0 : BitVec 7) ++ hi ++ (0 : BitVec m) ++ lo
    w.extractLsb' 0 n = lo ∧ w.extractLsb' n m = 0 ∧ w.extractLsb' (n + m) 9 = hi ∧
      w.extractLsb' (n + m + 9) 7 = 0 := by
  refine ⟨?_, ?_, ?_, ?_⟩
  · exact BitVec.extractLsb'_append_eq_right
  · rw [BitVec.extractLsb'_append_eq_of_le le_rfl, Nat.sub_self]
    exact BitVec.extractLsb'_append_eq_right
  · rw [BitVec.extractLsb'_append_eq_of_le (by omega), BitVec.extractLsb'_append_eq_of_le (by omega),
      show n + m - n - m = 0 by omega]
    exact BitVec.extractLsb'_append_eq_right
  · rw [BitVec.extractLsb'_append_eq_of_le (by omega), BitVec.extractLsb'_append_eq_of_le (by omega),
      BitVec.extractLsb'_append_eq_of_le (by omega), show n + m + 9 - n - m - 9 = 0 by omega]
    exact BitVec.extractLsb'_eq_self

theorem treeInfoWord_fields {s : State} {t : Tree} (ht : s.tree = some t) (hl : legalTree t = true) :
    ((treeInfoWord s).extractLsb' 0 10).toNat = treeSize t ∧ 1 ≤ treeSize t ∧ treeSize t ≤ 513 ∧
      ((treeInfoWord s).extractLsb' 16 9).toNat = (treeLeaves t).length ∧
      1 ≤ (treeLeaves t).length ∧ (treeLeaves t).length ≤ 257 ∧
      (treeInfoWord s).extractLsb' 10 6 = 0 ∧ (treeInfoWord s).extractLsb' 25 7 = 0 := by
  obtain ⟨hlo, hz, hhi, hz'⟩ :=
    viewLayout_fields 6 (BitVec.ofNat 9 (treeLeaves t).length) (BitVec.ofNat 10 (treeSize t))
  have hw : treeInfoWord s = (0 : BitVec 7) ++ BitVec.ofNat 9 (treeLeaves t).length ++ (0 : BitVec 6) ++
      BitVec.ofNat 10 (treeSize t) := by simp only [treeInfoWord, ht]
  have hs : treeSize t ≤ 513 := (legalTree_iff.mp hl).1
  have hn := treeSize_add_one t
  rw [hw]
  refine ⟨?_, by omega, hs, ?_, by omega, by omega, hz, hz'⟩
  · exact (congrArg BitVec.toNat hlo).trans (Nat.mod_eq_of_lt (by omega))
  · exact (congrArg BitVec.toNat hhi).trans (Nat.mod_eq_of_lt (by omega))

theorem decStateWord_fields {s : State} (hp : s.dpath.length ≤ 256) :
    ((decStateWord s).extractLsb' 16 9).toNat = s.dpath.length ∧
      (decStateWord s).extractLsb' 0 2 = dstateCode s.dstate ∧
      (decStateWord s).extractLsb' 2 14 = 0 ∧ (decStateWord s).extractLsb' 25 7 = 0 := by
  obtain ⟨hlo, hz, hhi, hz'⟩ :=
    viewLayout_fields 14 (BitVec.ofNat 9 s.dpath.length) (dstateCode s.dstate)
  exact ⟨(congrArg BitVec.toNat hhi).trans (Nat.mod_eq_of_lt (by omega)), hlo, hz, hz'⟩

/-! ### The register window -/

theorem step_of_hostMoves {s : State} {m : HostMove} {rest : List HostMove} (h : s.hostMoves = m :: rest) :
    step s = hostMove m { s with hostMoves := rest } := by
  simp only [step, h]

/-- A supported read of a register that does not hide answers its value (R49, R72). -/
theorem hostRead_shown {offset : BitVec 8} {s : State} (ha : offset.toNat % 4 = 0)
    (hv : s.busy = false ∨ hiddenWhileBusy offset = false) :
    hostRead offset 32 s = .next (addReply (.value (registerValue offset s)) s) := by
  have hn : (s.busy && hiddenWhileBusy offset) = false := by obtain h | h := hv <;> simp [h]
  simp [hostRead, accessSupported, ha, hn]

/-- A read of a hidden register while BUSY = 1 answers a free value (R49). -/
theorem hostRead_hidden {offset : BitVec 8} {s : State} (ha : offset.toNat % 4 = 0) (hb : s.busy = true)
    (hh : hiddenWhileBusy offset = true) :
    hostRead offset 32 s =
      .next (addReply (.value (Config.freeRead s.freeDraws)) { s with freeDraws := s.freeDraws + 1 }) := by
  simp [hostRead, accessSupported, ha, hb, hh]

/-- A write away from CMD is ignored (R72). -/
theorem hostWrite_ignored {offset : BitVec 8} {w : Word} {s : State} (ha : offset.toNat % 4 = 0)
    (hc : offset ≠ 0x04) : hostWrite offset 32 w s = .next s := by
  have hc' : ¬ offset = offsetCmd := hc
  simp [hostWrite, accessSupported, ha, hc']

/-- A CMD write while BUSY = 1 is dropped (R100). -/
theorem hostWrite_cmd_busy {w : Word} {s : State} (hb : s.busy = true) :
    hostWrite 0x04 32 w s = .next { s with cmdDropped := true } := by
  simp [hostWrite, accessSupported, offsetCmd, offerCommand, hb]

/-- An offset of the reserved part of the window is that of no register (R73). -/
theorem ne_of_reserved {offset k : BitVec 8} (h : 0x20 ≤ offset.toNat) (hk : k.toNat < 0x20) : offset ≠ k := by
  rintro rfl
  omega

/-- CMD and the reserved offsets read 0 (R24, R73). -/
theorem registerValue_unmapped {offset : BitVec 8} (h : offset = 0x04 ∨ 0x20 ≤ offset.toNat) (s : State) :
    registerValue offset s = 0 := by
  obtain rfl | h := h
  · rfl
  · simp [registerValue, offsetId, offsetStatus, offsetMagic, offsetResult, offsetCodeBits, offsetTreeInfo,
      offsetDecState, ne_of_reserved h]

theorem hiddenWhileBusy_unmapped {offset : BitVec 8} (h : offset = 0x04 ∨ 0x20 ≤ offset.toNat) :
    hiddenWhileBusy offset = false := by
  obtain rfl | h := h
  · rfl
  · simp [hiddenWhileBusy, offsetResult, offsetCodeBits, offsetTreeInfo, offsetDecState, ne_of_reserved h]

theorem hiddenWhileBusy_of_mem :
    ∀ offset ∈ ([0x10, 0x14, 0x18, 0x1C] : List (BitVec 8)), offset.toNat % 4 = 0 ∧ hiddenWhileBusy offset = true := by
  decide

/-- Settles O11, from the layout of the two views. -/
theorem viewRegisterFields : Obligations.ViewRegisterFields := by
  intro s
  refine ⟨rfl, rfl, fun w => ⟨hostWrite_ignored (by decide) (by decide), hostWrite_ignored (by decide) (by decide)⟩,
    fun h => by simp only [treeInfoWord, h], fun t => treeInfoWord_fields, fun hp => ?_⟩
  obtain ⟨hlen, hcode, hz⟩ := decStateWord_fields hp
  exact ⟨hlen, hcode.trans (by cases s.dstate <;> rfl), hz⟩

/-- Settles O7: each access by its rule, none of which looks at the host's coming moves. -/
theorem accessesWhileBusy : Obligations.AccessesWhileBusy := by
  intro s rest hb
  refine ⟨fun h => ?_, fun h => ?_, fun h => ?_, fun offset ho h => ?_, fun w h => ?_, fun offset w ha hc h => ?_⟩ <;>
    rw [step_of_hostMoves h]
  · exact hostRead_shown (by decide) (.inr rfl)
  · exact hostRead_shown (by decide) (.inr rfl)
  · exact hostRead_shown (by decide) (.inr rfl)
  · obtain ⟨ha, hh⟩ := hiddenWhileBusy_of_mem offset ho
    exact hostRead_hidden ha hb hh
  · exact hostWrite_cmd_busy hb
  · exact hostWrite_ignored ha hc

/-- Settles O8: an idle engine shows every register, and CMD and the reserved offsets hide at no time. -/
theorem idleWindowAccesses : Obligations.IdleWindowAccesses := by
  intro s rest offset ha
  refine ⟨fun hb => ⟨fun h => ⟨registerValue offset s, ?_, ?_⟩, fun w hc h => ?_⟩, fun hu h => ?_⟩
  · rw [step_of_hostMoves h]
    exact hostRead_shown ha (.inl hb)
  · refine ⟨?_, ?_, ?_, ?_, ?_, ?_, ?_, ?_, fun hr => registerValue_unmapped (.inr hr) s⟩ <;> rintro rfl <;> rfl
  · rw [step_of_hostMoves h]
    exact hostWrite_ignored ha hc
  · rw [step_of_hostMoves h, ← registerValue_unmapped hu s]
    exact hostRead_shown ha (.inr (hiddenWhileBusy_unmapped hu))

/-! ### Reset -/

theorem freqInitial_byte {x : Symbol} (hx : x ≠ Config.eos) : freqInitial[x] = 0 := by
  have hne : 256 ≠ x.val := fun h => hx (Fin.ext h.symm)
  exact (Vector.getElem_set_ne (by decide) x.isLt hne).trans (Vector.getElem_replicate x.isLt)

theorem statusWord_resetEngine (s : State) : statusWord s.resetEngine = 0 := by
  change statusWord State.reset = 0
  decide

theorem decStateWord_resetEngine (s : State) : decStateWord s.resetEngine = 0 := by
  change decStateWord State.reset = 0
  decide

/-- Each of the three ways to the reset state ends in the reset of the state it starts from. -/
theorem eq_resetEngine_of_reset {s t : State}
    (h : exec .sreset s = .next t ∨
      (s.busy = false ∧ step s = .next t ∧ ∃ subOps portOps rest, s.hostMoves = .assertReset subOps portOps :: rest) ∨
      (s = State.reset ∧ t = State.reset)) : ∃ ms, t = State.resetEngine { s with hostMoves := ms } := by
  obtain h | ⟨hb, h, k, j, rest, hm⟩ | ⟨rfl, rfl⟩ := h
  · cases h
    exact ⟨s.hostMoves, rfl⟩
  · rw [step_of_hostMoves hm] at h
    cases h
    exact ⟨rest, by simp [resetInput, hb]⟩
  · exact ⟨[], rfl⟩

/-- Settles O12: the values of the reset, read off one by one. -/
theorem resetValues : Obligations.ResetValues := by
  intro s t h
  obtain ⟨ms, rfl⟩ := eq_resetEngine_of_reset h
  refine ⟨rfl, rfl, rfl, rfl, rfl, rfl, rfl, rfl, rfl, fun x => freqInitial_byte, freqInitial_eos, rfl, rfl, rfl, rfl,
    rfl, rfl, statusWord_resetEngine _, rfl, decStateWord_resetEngine _, rfl, rfl, rfl⟩

end Sys2Proof.Machine
end

section
/-! PROOF. Bit sequences, numerals and bytes: `num` and `bitsOf` undo each other, and so do `bytesToBits` and
`bitsToBytes` (R9, R66, R67). -/

namespace Sys2Proof.Machine

/-! ### Numerals -/

theorem foldl_num (c : Bits) (v : Nat) :
    c.foldl (fun v b => 2 * v + b.toNat) v = v * 2 ^ c.length + num c := by
  induction c generalizing v with
  | nil => simp [num]
  | cons b c ih =>
    have hn : num (b :: c) = b.toNat * 2 ^ c.length + num c := by
      rw [num, List.foldl_cons, ih]
      simp
    rw [List.foldl_cons, ih, hn, List.length_cons]
    ring

/-- The first bit is the most significant (R9). -/
theorem num_cons (b : Bool) (c : Bits) : num (b :: c) = b.toNat * 2 ^ c.length + num c := by
  rw [num, List.foldl_cons, foldl_num]
  simp

theorem num_lt (c : Bits) : num c < 2 ^ c.length := by
  induction c with
  | nil => decide
  | cons b c ih =>
    have hb : b.toNat * 2 ^ c.length ≤ 1 * 2 ^ c.length := Nat.mul_le_mul_right _ b.toNat_le
    rw [num_cons, List.length_cons, pow_succ]
    omega

@[simp] theorem length_bitsOf {n : Nat} (v : BitVec n) : (bitsOf v).length = n := by simp [bitsOf]

theorem getElem?_bitsOf {n k : Nat} (v : BitVec n) (hk : k < n) : (bitsOf v)[k]? = some (v.getMsbD k) := by
  simp [bitsOf, hk]

theorem bitsOf_cons {n : Nat} (b : Bool) (v : BitVec n) : bitsOf (BitVec.cons b v) = b :: bitsOf v := by
  have hhead : (BitVec.cons b v).getMsbD 0 = b := BitVec.msb_cons
  simp [bitsOf, List.range_succ_eq_map, hhead]

theorem num_bitsOf {n : Nat} (v : BitVec n) : num (bitsOf v) = v.toNat := by
  induction n with
  | zero => simp [BitVec.eq_nil v, bitsOf, num]
  | succ n ih =>
    rw [← BitVec.cons_msb_setWidth v, bitsOf_cons, num_cons, ih, length_bitsOf, BitVec.toNat_cons', Nat.shiftLeft_eq]

/-- The numeral of a sequence fits in as many bits. -/
theorem toNat_ofNat_num {n : Nat} {c : Bits} (h : c.length = n) : (BitVec.ofNat n (num c)).toNat = num c := by
  subst h
  exact Nat.mod_eq_of_lt (num_lt c)

theorem ofNat_num_cons (b : Bool) (c : Bits) :
    BitVec.ofNat (c.length + 1) (num (b :: c)) = BitVec.cons b (BitVec.ofNat c.length (num c)) := by
  apply BitVec.eq_of_toNat_eq
  rw [toNat_ofNat_num List.length_cons, BitVec.toNat_cons', toNat_ofNat_num rfl, num_cons, Nat.shiftLeft_eq]

/-- The numeral of a sequence spells that sequence (R9, R63). -/
theorem bitsOf_ofNat_num {n : Nat} {c : Bits} (h : c.length = n) : bitsOf (BitVec.ofNat n (num c)) = c := by
  subst h
  induction c with
  | nil => rfl
  | cons b c ih => rw [List.length_cons, ofNat_num_cons, bitsOf_cons, ih]

/-! ### Bytes -/

theorem bytesToBits_cons (b : Byte) (B : List Byte) : bytesToBits (b :: B) = bitsOf b ++ bytesToBits B := rfl

@[simp] theorem length_bytesToBits (B : List Byte) : (bytesToBits B).length = 8 * B.length := by
  simp [bytesToBits, List.length_flatMap, Nat.mul_comm]

/-- Bit 7 of a byte comes first (R66). -/
theorem getElem?_bytesToBits {B : List Byte} {j i : Nat} (hj : j < B.length) (hi : i < 8) :
    (bytesToBits B)[8 * j + i]? = some (B[j].getLsbD (7 - i)) := by
  induction B generalizing j with
  | nil => cases hj
  | cons b B ih =>
    rw [bytesToBits_cons]
    cases j with
    | zero =>
      rw [List.getElem?_append_left (by simp; omega), Nat.mul_zero, Nat.zero_add, getElem?_bitsOf b hi]
      simp [BitVec.getMsbD_eq_getLsbD, hi]
    | succ j =>
      rw [List.getElem?_append_right (by simp; omega), length_bitsOf, show 8 * (j + 1) + i - 8 = 8 * j + i by omega]
      exact ih (Nat.lt_of_succ_lt_succ hj)

@[simp] theorem length_bitsToBytes (k : Nat) (c : Bits) : (bitsToBytes k c).length = k := by
  induction k generalizing c with
  | zero => rfl
  | succ k ih => simp [bitsToBytes, ih]

theorem bitsToBytes_bytesToBits (B : List Byte) : bitsToBytes B.length (bytesToBits B) = B := by
  induction B with
  | nil => rfl
  | cons b B ih =>
    have htake : (bitsOf b ++ bytesToBits B).take 8 = bitsOf b := List.take_left' (length_bitsOf b)
    have hdrop : (bitsOf b ++ bytesToBits B).drop 8 = bytesToBits B := List.drop_left' (length_bitsOf b)
    rw [bytesToBits_cons, List.length_cons, bitsToBytes, htake, hdrop, ih, num_bitsOf, BitVec.ofNat_toNat,
      BitVec.setWidth_eq]

theorem bytesToBits_bitsToBytes {k : Nat} {c : Bits} (h : 8 * k ≤ c.length) :
    bytesToBits (bitsToBytes k c) = c.take (8 * k) := by
  induction k generalizing c with
  | zero => rfl
  | succ k ih =>
    rw [bitsToBytes, bytesToBits_cons, bitsOf_ofNat_num (by simp; omega), ih (by simp; omega), ← List.take_add,
      show 8 + 8 * k = 8 * (k + 1) by omega]

theorem getElem_bitsToBytes {k j : Nat} {c : Bits} (h : 8 * k ≤ c.length) (hj : j < (bitsToBytes k c).length) :
    (bitsToBytes k c)[j].toNat = num ((c.drop (8 * j)).take 8) := by
  induction k generalizing j c with
  | zero => cases hj
  | succ k ih =>
    cases j with
    | zero => exact toNat_ofNat_num (by simp; omega)
    | succ j =>
      have hstep := ih (c := c.drop 8) (by simp; omega) (Nat.lt_of_succ_lt_succ hj)
      rwa [List.drop_drop, show 8 + 8 * j = 8 * (j + 1) by omega] at hstep

theorem wholeBytes_bytesToBits (B : List Byte) : wholeBytes (bytesToBits B) = B := by
  rw [wholeBytes, length_bytesToBits, Nat.mul_div_cancel_left _ (by decide), bitsToBytes_bytesToBits]

/-- A pad is at most 7 bits and reaches a byte boundary (R65). -/
theorem padLength_lt (len : Nat) : padLength len < 8 := Nat.mod_lt _ (by decide)

theorem length_padToByte_mod (c : Bits) : (padToByte c).length % 8 = 0 := by
  simp only [padToByte, padLength, List.length_append, List.length_replicate]
  omega

end Sys2Proof.Machine
end

section
/-! PROOF. The ports, the stream moves of the host, and the accesses the window refuses (R61 to R67, R71, R83). -/

namespace Sys2Proof.Machine

/-! ### One port operation -/

theorem drawPort_failing {s : State} (h : s.portDraws.head? = some true) :
    drawPort s = (true, { s with portDraws := s.portDraws.tail }) := by
  simp [drawPort_eq, h]

theorem drawPort_passing {s : State} (h : s.portDraws.head? ≠ some true) :
    drawPort s = (false, { s with portDraws := s.portDraws.tail }) := by
  have hd : ∀ o : Option Bool, o ≠ some true → o.getD false = false := by decide
  rw [drawPort_eq, hd _ h]

theorem writeField_passing {n : Nat} (v : BitVec n) {s : State} (h : s.portDraws.head? ≠ some true) :
    writeField v s = .done () { s with portDraws := s.portDraws.tail, outBits := s.outBits ++ bitsOf v } := by
  obtain ⟨-, hf⟩ | ⟨hw, -⟩ := writeField_cases v s
  · exact absurd hf h
  · exact hw

theorem writeField_failing {n : Nat} (v : BitVec n) {s : State} (h : s.portDraws.head? = some true) :
    writeField v s = .raised .ioError { s with portDraws := s.portDraws.tail } := by
  obtain ⟨hw, -⟩ | ⟨-, hp⟩ := writeField_cases v s
  · exact hw
  · exact absurd h hp

theorem flushOutput_passing {s : State} (h : s.portDraws.head? ≠ some true) :
    flushOutput s = .done () { s with portDraws := s.portDraws.tail, outBits := padToByte s.outBits } := by
  obtain ⟨-, hf⟩ | ⟨hw, -⟩ := flushOutput_cases s
  · exact absurd hf h
  · exact hw

theorem flushOutput_failing {s : State} (h : s.portDraws.head? = some true) :
    flushOutput s = .raised .ioError { s with portDraws := s.portDraws.tail } := by
  obtain ⟨hw, -⟩ | ⟨-, hp⟩ := flushOutput_cases s
  · exact hw
  · exact absurd h hp

/-! ### The bits of a code, one port operation each -/

theorem writeBits_cons_passing (b : Bool) (c : Bits) {s : State} (h : s.portDraws.head? ≠ some true) :
    writeBits (b :: c) s =
      writeBits c { s with portDraws := s.portDraws.tail, outBits := s.outBits ++ [b] } := by
  rw [writeBits, writeField_passing _ h, bitsOf_ofBool, Run.andThen_done]

theorem writeBits_passing {c : Bits} {s : State} (h : ∀ j, j < c.length → s.portDraws[j]? ≠ some true) :
    writeBits c s = .done () { s with portDraws := s.portDraws.drop c.length, outBits := s.outBits ++ c } := by
  induction c generalizing s with
  | nil => simp [writeBits]
  | cons b c ih =>
    have hhead : s.portDraws.head? ≠ some true := List.head?_eq_getElem? ▸ h 0 (by simp)
    rw [writeBits_cons_passing b c hhead, ih fun j hj => List.getElem?_tail ▸ h (j + 1) (by simpa using hj)]
    simp

/-- Where the port fails at bit `j`, exactly the bits before it are written (R63). -/
theorem writeBits_failing {c : Bits} {j : Nat} {s : State} (hj : j < c.length)
    (hp : ∀ k, k < j → s.portDraws[k]? ≠ some true) (hf : s.portDraws[j]? = some true) :
    writeBits c s =
      .raised .ioError { s with portDraws := s.portDraws.drop (j + 1), outBits := s.outBits ++ c.take j } := by
  induction c generalizing j s with
  | nil => cases hj
  | cons b c ih =>
    cases j with
    | zero =>
      rw [writeBits, writeField_failing _ (List.head?_eq_getElem?.trans hf)]
      simp
    | succ j =>
      have hhead : s.portDraws.head? ≠ some true := List.head?_eq_getElem? ▸ hp 0 (by simp)
      rw [writeBits_cons_passing b c hhead, ih (Nat.lt_of_succ_lt_succ hj)
        (fun k hk => List.getElem?_tail ▸ hp (k + 1) (by omega)) (List.getElem?_tail ▸ hf)]
      simp

/-- Settles O18: the value's bits are appended whole, a code's one by one. -/
theorem outWriteAppends : Obligations.OutWriteAppends :=
  ⟨fun _ v _ => ⟨length_bitsOf v, num_bitsOf v, writeField_passing v, writeField_failing v⟩,
    fun _ _ => ⟨bitsOf_ofNat_num rfl, rfl, writeBits_passing, fun _ => writeBits_failing⟩⟩

/-- Settles O16: the pad of `padToByte`, or the failure that appends nothing. -/
theorem outFlushPadsToAByte : Obligations.OutFlushPadsToAByte := by
  refine ⟨by decide, fun s => ⟨fun h => ?_, fun h => ?_⟩⟩ <;>
    rw [exec_eq_endCommand, commandSteps, runSteps_singleton]
  · rw [flushOutput_passing h]
    exact ⟨_, padLength s.outBits.length, rfl, padLength_lt _, rfl, length_padToByte_mod _, rfl⟩
  · rw [flushOutput_failing h]
    rfl

/-! ### InRead -/

theorem portRead_failing (n : Nat) {s : State} (h : s.portDraws.head? = some true) :
    portRead n s = (.ioErr, { s with portDraws := s.portDraws.tail }) := by
  rw [portRead, drawPort_failing h]

theorem portRead_short {n : Nat} {s : State} (h : s.portDraws.head? ≠ some true)
    (hn : s.inBits.length < s.inPos + n) : portRead n s = (.eod, { s with portDraws := s.portDraws.tail }) := by
  simp [portRead, drawPort_passing h, hn]

theorem portRead_data {n : Nat} {s : State} (h : s.portDraws.head? ≠ some true)
    (hn : s.inPos + n ≤ s.inBits.length) :
    portRead n s = (.data (BitVec.ofNat n (num ((s.inBits.drop s.inPos).take n))),
      { s with portDraws := s.portDraws.tail, inPos := s.inPos + n }) := by
  simp [portRead, drawPort_passing h, hn]

/-- Settles O17: the value is the numeral of the next `n` bits, so it spells them. -/
theorem inReadAnswers : Obligations.InReadAnswers := by
  intro n s _ _
  refine ⟨portRead_failing n, portRead_short, fun h hn => ⟨_, portRead_data h hn, ?_, fun k hk => ?_⟩⟩
  all_goals have hlen : ((s.inBits.drop s.inPos).take n).length = n := by simp; omega
  · exact toNat_ofNat_num hlen
  · rw [← getElem?_bitsOf _ hk, bitsOf_ofNat_num hlen, List.getElem?_take_of_lt hk, List.getElem?_drop]

/-! ### The host's moves -/

/-- Settles O19: bytes and bits undo each other, and the two stream moves are the head of the host's moves. -/
theorem streamBytesAndHostMoves : Obligations.StreamBytesAndHostMoves := by
  refine ⟨fun B => ⟨length_bytesToBits B, wholeBytes_bytesToBits B, fun j i => getElem?_bytesToBits⟩,
    fun c => ⟨length_bitsToBytes _ c, bytesToBits_bitsToBytes (Nat.mul_div_le _ 8), fun j =>
      getElem_bitsToBytes (Nat.mul_div_le _ 8)⟩, fun s B rest => ⟨fun h => ?_, fun h => ?_⟩⟩
  · exact step_of_hostMoves h
  · exact step_of_hostMoves h

theorem accessSupported_eq_false {offset : BitVec 8} {width : Nat} (h : width ≠ 32 ∨ offset.toNat % 4 ≠ 0) :
    accessSupported offset width = false := by
  obtain h | h := h <;> simp [accessSupported, h]

theorem hostRead_unsupported {offset : BitVec 8} {width : Nat} (h : width ≠ 32 ∨ offset.toNat % 4 ≠ 0) (s : State) :
    hostRead offset width s = .refused .unsupportedAccess := by
  simp [hostRead, accessSupported_eq_false h]

theorem hostWrite_unsupported {offset : BitVec 8} {width : Nat} (h : width ≠ 32 ∨ offset.toNat % 4 ≠ 0) (w : Word)
    (s : State) : hostWrite offset width w s = .refused .unsupportedAccess := by
  simp [hostWrite, accessSupported_eq_false h]

/-- A supported read answers its register or a free value (R49). -/
theorem hostRead_supported {offset : BitVec 8} (ha : offset.toNat % 4 = 0) (s : State) :
    ∃ t, hostRead offset 32 s = .next t := by
  cases hb : s.busy
  case false => exact ⟨_, hostRead_shown ha (.inl hb)⟩
  cases hh : hiddenWhileBusy offset
  case false => exact ⟨_, hostRead_shown ha (.inr hh)⟩
  exact ⟨_, hostRead_hidden ha hb hh⟩

/-- A write of CMD offers its word to the engine (R100). -/
theorem hostWrite_cmd (w : Word) (s : State) : hostWrite 0x04 32 w s = .next (offerCommand w s) := rfl

/-- A supported write offers its command at CMD and is ignored elsewhere (R72). -/
theorem hostWrite_supported {offset : BitVec 8} (ha : offset.toNat % 4 = 0) (w : Word) (s : State) :
    ∃ t, hostWrite offset 32 w s = .next t := by
  by_cases hc : offset = 0x04
  · subst hc
    exact ⟨_, hostWrite_cmd w s⟩
  · exact ⟨_, hostWrite_ignored ha hc⟩

/-- Settles O9: an access is refused where `accessSupported` is false, and only there. -/
theorem unsupportedAccessesRefused : Obligations.UnsupportedAccessesRefused := by
  intro s rest offset width w
  refine ⟨fun hu => ⟨fun h => ?_, fun h => ?_⟩, fun hw ha => ?_⟩
  · exact (step_of_hostMoves h).trans (hostRead_unsupported hu _)
  · exact (step_of_hostMoves h).trans (hostWrite_unsupported hu w _)
  · subst hw
    refine ⟨fun h => ?_, fun h => ?_⟩ <;> rw [step_of_hostMoves h]
    · exact hostRead_supported ha _
    · exact hostWrite_supported ha w _

end Sys2Proof.Machine
end

section
/-! PROOF. Command words (R88 to R95): a word is its four fields, so the decoder and the encoder undo each other, and
the illegal words are those R94 lists. Each form of operand is settled once, for the words it accepts and for those it
does not; `decodeWord_forms` says which form a word has. -/

namespace Sys2Proof.Machine

/-! ### The fields of a word -/

/-- A word is the concatenation of its four fields (R88). -/
theorem fields_append_eq (w : Word) : rsvField w ++ wordField w ++ symField w ++ opcodeField w = w := by
  have hk : rsvField w ++ wordField w = w.extractLsb' 17 15 := BitVec.extractLsb'_append_extractLsb'_eq_extractLsb' rfl
  have hs : w.extractLsb' 17 15 ++ symField w = w.extractLsb' 8 24 :=
    BitVec.extractLsb'_append_extractLsb'_eq_extractLsb' rfl
  have hop : w.extractLsb' 8 24 ++ opcodeField w = w := BitVec.extractLsb'_append_extractLsb'
  rw [hk, hs, hop]

/-- The layout of R88, in the shifts of R95. -/
theorem append_eq_or_shiftLeft (k : BitVec 3) (s : BitVec 9) (op : BitVec 8) :
    (0 : BitVec 12) ++ k ++ s ++ op = op.setWidth 32 ||| (s.setWidth 32 <<< 8) ||| (k.setWidth 32 <<< 17) := by
  refine BitVec.eq_of_getLsbD_eq fun j hj => ?_
  simp only [BitVec.getLsbD_append, BitVec.getLsbD_or, BitVec.getLsbD_setWidth, BitVec.getLsbD_shiftLeft]
  grind

/-- A word with a command's fields is the command's encoding. -/
theorem encode_eq_of_fields {i : Instr} {w : Word} (hr : rsvField w = 0) (hop : opcodeOf i = opcodeField w)
    (hs : symOperand i = symField w) (hk : wordOperand i = wordField w) : encode i = w := by
  calc encode i = (0 : BitVec 12) ++ wordField w ++ symField w ++ opcodeField w := by rw [encode, hop, hs, hk]
    _ = w := by rw [← hr, fields_append_eq]

/-- A nine-bit field with its top bit zero is a byte. -/
theorem setWidth_byte_of_getLsbD_eq_false {s : BitVec 9} (h : s.getLsbD 8 = false) :
    (s.extractLsb' 0 8).setWidth 9 = s := by
  refine BitVec.eq_of_getLsbD_eq fun j hj => ?_
  simp only [BitVec.getLsbD_setWidth, BitVec.getLsbD_extractLsb']
  grind

/-! ### The forms of operand -/

/-- The opcodes of the commands that take an operand (R92). -/
def operandOpcodes : List (BitVec 8) := [0x11, 0x13, 0x31, 0x50]

/-- The assigned opcodes are those of the two kinds of command. -/
theorem assignedOpcodes_perm : assignedOpcodes.Perm (operandOpcodes ++ plainOpcodes.map Prod.fst) := by decide

/-- The form of each word (R93). -/
theorem decodeWord_forms (w : Word) :
    (rsvField w ≠ 0 ∧ decodeWord w = .illegal .reservedBits) ∨
    (rsvField w = 0 ∧
      ((opcodeField w = 0x11 ∧ decodeWord w = decodeByteForm (symField w) (wordField w)) ∨
       (opcodeField w = 0x13 ∧ decodeWord w = decodeSymbolForm .freqRead (symField w) (wordField w)) ∨
       (opcodeField w = 0x50 ∧ decodeWord w = decodeSymbolForm .encSym (symField w) (wordField w)) ∨
       (opcodeField w = 0x31 ∧ decodeWord w = decodeWindowForm (symField w) (wordField w)) ∨
       (opcodeField w ∉ operandOpcodes ∧
         decodeWord w = decodePlainForm (opcodeField w) (symField w) (wordField w)))) := by
  simp only [decodeWord]
  split_ifs with hr h11 h13 h50 h31
  · exact .inl ⟨hr, rfl⟩
  all_goals refine .inr ⟨not_not.mp hr, ?_⟩
  · exact .inl ⟨h11, rfl⟩
  · exact .inr (.inl ⟨h13, rfl⟩)
  · exact .inr (.inr (.inl ⟨h50, rfl⟩))
  · exact .inr (.inr (.inr (.inl ⟨h31, rfl⟩)))
  · refine .inr (.inr (.inr (.inr ⟨?_, rfl⟩)))
    simp only [operandOpcodes, List.mem_cons, List.not_mem_nil, h11, h13, h31, h50, or_self, not_false_eq_true]

theorem symbolInRange_eq_false_iff (s : BitVec 9) : symbolInRange s = false ↔ 256 < s.toNat := by
  simp [symbolInRange]

section Forms

variable {i : Instr} {op : BitVec 8} {s : BitVec 9} {k : BitVec 3}

theorem decodeByteForm_eq_command_iff :
    decodeByteForm s k = .command i ↔ s.getLsbD 8 = false ∧ k = 0 ∧ .freqAdd (s.extractLsb' 0 8) = i := by
  unfold decodeByteForm
  split_ifs <;> simp_all

theorem decodeByteForm_illegal_iff :
    (∃ why, decodeByteForm s k = .illegal why) ↔ s.getLsbD 8 = true ∨ k ≠ 0 := by
  unfold decodeByteForm
  split_ifs <;> simp_all

theorem decodeSymbolForm_eq_command_iff {mk : BitVec 9 → Instr} :
    decodeSymbolForm mk s k = .command i ↔ symbolInRange s = true ∧ k = 0 ∧ mk s = i := by
  unfold decodeSymbolForm
  split_ifs <;> simp_all

theorem decodeSymbolForm_illegal_iff {mk : BitVec 9 → Instr} :
    (∃ why, decodeSymbolForm mk s k = .illegal why) ↔ 256 < s.toNat ∨ k ≠ 0 := by
  unfold decodeSymbolForm
  rw [← symbolInRange_eq_false_iff]
  split_ifs <;> simp_all

theorem decodeWindowForm_eq_command_iff :
    decodeWindowForm s k = .command i ↔ symbolInRange s = true ∧ .codeRead s k = i := by
  unfold decodeWindowForm
  split_ifs <;> simp_all

theorem decodeWindowForm_illegal_iff : (∃ why, decodeWindowForm s k = .illegal why) ↔ 256 < s.toNat := by
  unfold decodeWindowForm
  rw [← symbolInRange_eq_false_iff]
  split_ifs <;> simp_all

theorem decodePlainForm_eq_command_iff :
    decodePlainForm op s k = .command i ↔ plainOpcodes.lookup op = some i ∧ s = 0 ∧ k = 0 := by
  unfold decodePlainForm
  cases plainOpcodes.lookup op with
  | none => simp
  | some j => by_cases hs : s = 0 <;> by_cases hk : k = 0 <;> simp_all

theorem decodePlainForm_illegal_iff :
    (∃ why, decodePlainForm op s k = .illegal why) ↔ op ∉ plainOpcodes.map Prod.fst ∨ s ≠ 0 ∨ k ≠ 0 := by
  have hnone : plainOpcodes.lookup op = none ↔ op ∉ plainOpcodes.map Prod.fst := by
    simp only [List.lookup_eq_none_iff, List.mem_map, bne_iff_ne]
    grind
  rw [← hnone]
  unfold decodePlainForm
  cases plainOpcodes.lookup op with
  | none => simp
  | some j => by_cases hs : s = 0 <;> by_cases hk : k = 0 <;> simp_all

/-- Each row of the opcode map's plain part: the command has that opcode and no operand (R92). -/
theorem plainOpcodes_row (h : plainOpcodes.lookup op = some i) :
    i.wellFormed = true ∧ opcodeOf i = op ∧ symOperand i = 0 ∧ wordOperand i = 0 := by
  have hrows : ∀ p ∈ plainOpcodes, p.2.wellFormed = true ∧ opcodeOf p.2 = p.1 ∧ symOperand p.2 = 0 ∧
      wordOperand p.2 = 0 := by decide
  obtain ⟨l, l', hl, -⟩ := List.lookup_eq_some_iff.mp h
  exact hrows (op, i) (by simp [hl])

end Forms

/-! ### Decoding and encoding -/

/-- A well-formed command decodes from its own word: the fields of the word are its own, and its form accepts them. -/
theorem decodeWord_encode {i : Instr} (h : i.wellFormed = true) : decodeWord (encode i) = .command i := by
  obtain ⟨hop, -, hs, hk, hr⟩ := Laws.EncodedFields.statement_of i
  simp only [decodeWord, hop, hs, hk, hr]
  cases i with
  | freqAdd b =>
    have hb : (b.setWidth 9).extractLsb' 0 8 = b := by
      rw [BitVec.extractLsb'_setWidth_of_le (by decide), BitVec.extractLsb'_eq_self]
    exact decodeByteForm_eq_command_iff.mpr ⟨by simp [symOperand], rfl, congrArg Instr.freqAdd hb⟩
  | freqRead x => exact decodeSymbolForm_eq_command_iff.mpr ⟨h, rfl, rfl⟩
  | encSym x => exact decodeSymbolForm_eq_command_iff.mpr ⟨h, rfl, rfl⟩
  | codeRead x k => exact decodeWindowForm_eq_command_iff.mpr ⟨h, rfl⟩
  | _ => rfl

/-- Settles O2: the fields of the word are the command's own. -/
theorem decodeInvertsEncode : Obligations.DecodeInvertsEncode :=
  fun _ => ⟨decodeWord_encode, append_eq_or_shiftLeft _ _ _⟩

/-- Settles O3: each form gives its command the word's own fields, and a word is its fields. -/
theorem encodeInvertsDecode : Obligations.EncodeInvertsDecode := by
  intro w i h
  obtain ⟨-, hd⟩ | ⟨hr, ⟨hop, hd⟩ | ⟨hop, hd⟩ | ⟨hop, hd⟩ | ⟨hop, hd⟩ | ⟨-, hd⟩⟩ := decodeWord_forms w
  all_goals rw [hd] at h
  · cases h
  · obtain ⟨h8, hk, rfl⟩ := decodeByteForm_eq_command_iff.mp h
    exact ⟨rfl, encode_eq_of_fields hr hop.symm (setWidth_byte_of_getLsbD_eq_false h8) hk.symm⟩
  · obtain ⟨hs, hk, rfl⟩ := decodeSymbolForm_eq_command_iff.mp h
    exact ⟨hs, encode_eq_of_fields hr hop.symm rfl hk.symm⟩
  · obtain ⟨hs, hk, rfl⟩ := decodeSymbolForm_eq_command_iff.mp h
    exact ⟨hs, encode_eq_of_fields hr hop.symm rfl hk.symm⟩
  · obtain ⟨hs, rfl⟩ := decodeWindowForm_eq_command_iff.mp h
    exact ⟨hs, encode_eq_of_fields hr hop.symm rfl rfl⟩
  · obtain ⟨hl, hs, hk⟩ := decodePlainForm_eq_command_iff.mp h
    obtain ⟨hwf, hop, hs', hk'⟩ := plainOpcodes_row hl
    exact ⟨hwf, encode_eq_of_fields hr hop (hs'.trans hs.symm) (hk'.trans hk.symm)⟩

/-! ### The illegal words -/

theorem decodeWord_illegal_iff (w : Word) : (∃ why, decodeWord w = .illegal why) ↔
    rsvField w ≠ 0 ∨ opcodeField w ∉ assignedOpcodes ∨
    (opcodeField w = 0x11 ∧ ((symField w).getLsbD 8 = true ∨ wordField w ≠ 0)) ∨
    ((opcodeField w = 0x13 ∨ opcodeField w = 0x50) ∧ (256 < (symField w).toNat ∨ wordField w ≠ 0)) ∨
    (opcodeField w = 0x31 ∧ 256 < (symField w).toNat) ∨
    (opcodeField w ∉ operandOpcodes ∧ (symField w ≠ 0 ∨ wordField w ≠ 0)) := by
  obtain ⟨hr, hd⟩ | ⟨hr, ⟨hop, hd⟩ | ⟨hop, hd⟩ | ⟨hop, hd⟩ | ⟨hop, hd⟩ | ⟨hop, hd⟩⟩ := decodeWord_forms w
  all_goals rw [hd]
  · exact iff_of_true ⟨_, rfl⟩ (.inl hr)
  · rw [decodeByteForm_illegal_iff]
    simp [hr, hop, assignedOpcodes, operandOpcodes]
  · rw [decodeSymbolForm_illegal_iff]
    simp [hr, hop, assignedOpcodes, operandOpcodes]
  · rw [decodeSymbolForm_illegal_iff]
    simp [hr, hop, assignedOpcodes, operandOpcodes]
  · rw [decodeWindowForm_illegal_iff]
    simp [hr, hop, assignedOpcodes, operandOpcodes]
  · rw [decodePlainForm_illegal_iff, assignedOpcodes_perm.mem_iff, List.mem_append]
    simp_all [operandOpcodes]

theorem offerCommand_accepted {s : State} (hb : s.busy = false) (he : s.err = false) (w : Word) :
    offerCommand w s = { s with pend := w, lastOp := w.extractLsb' 0 8, busy := true } := by
  simp [offerCommand, hb, he]

/-- The engine's turn on an illegal word (R94). -/
theorem engineStep_illegal {s : State} {why : IllegalWord} (hb : s.busy = true)
    (hw : decodeWord s.pend = .illegal why) : engineStep s = .next (s.abort .illegalCommand) := by
  simp only [engineStep, hb, hw, if_true]

/-- Settles O4, form by form; an accepted illegal word is pending when the engine's turn comes. -/
theorem illegalWordsAreExactlyThese : Obligations.IllegalWordsAreExactlyThese := by
  refine ⟨decodeWord_illegal_iff, by decide, by decide, fun s w why hb he hw => ?_⟩
  rw [offerCommand_accepted hb he]
  exact ⟨rfl, engineStep_illegal rfl hw⟩

/-- Settles O1: the 24 words are fixed, and the decoder computes. -/
theorem specWordsDecode : Obligations.SpecWordsDecode := by
  unfold Obligations.SpecWordsDecode
  decide

end Sys2Proof.Machine
end

section
/-! PROOF. The frequency table (R130 to R136): what counting some bytes does to each count, what one turn of
FREQ_SCAN's loop does at each answer of the port, and from these the loop itself: it counts every byte before its first
stop. -/

namespace Sys2Proof.Machine

/-! ### Bytes as symbols -/

@[simp] theorem byteSymbol_inj {a b : Byte} : byteSymbol a = byteSymbol b ↔ a = b := by
  simp [byteSymbol, BitVec.toNat_eq]

theorem byteSymbol_ne_eos (b : Byte) : byteSymbol b ≠ Config.eos := fun h => b.isLt.ne (congrArg Fin.val h)

/-- Every symbol is a byte or the sentinel (R13). -/
theorem eq_byteSymbol_or_eos (x : Symbol) : (∃ b, x = byteSymbol b) ∨ x = Config.eos := by
  by_cases hx : x.val = 256
  · exact .inr (Fin.ext hx)
  · refine .inl ⟨symbolByte x, Fin.ext ?_⟩
    change x.val = x.val % 2 ^ 8
    omega

/-! ### Counting bytes -/

/-- A frequency table after some bytes were counted one by one (R131), where no count is at its maximum. -/
def countBytes : List Byte → Vector Word 257 → Vector Word 257
  | [], f => f
  | b :: B, f => countBytes B (f.set (byteSymbol b).val (f[byteSymbol b] + 1))

/-- Counting one byte writes its own count alone (R131). -/
theorem getElem_countBytes_of_ne (b : Byte) (f : Vector Word 257) {x : Symbol} (hx : x ≠ byteSymbol b) :
    (countBytes [b] f)[x] = f[x] :=
  Vector.getElem_set_ne (byteSymbol b).isLt x.isLt fun h => hx (Fin.ext h.symm)

theorem getElem_countBytes_eos (B : List Byte) (f : Vector Word 257) :
    (countBytes B f)[Config.eos] = f[Config.eos] := by
  induction B generalizing f with
  | nil => rfl
  | cons b B ih => exact (ih _).trans (getElem_countBytes_of_ne b f (byteSymbol_ne_eos b).symm)

/-- Each byte's count grows by its occurrences, modulo `2^32`. -/
theorem getElem_countBytes_byte (B : List Byte) (f : Vector Word 257) (x : Byte) :
    (countBytes B f)[byteSymbol x] = f[byteSymbol x] + BitVec.ofNat 32 (B.count x) := by
  induction B generalizing f with
  | nil => simp [countBytes]
  | cons b B ih =>
    rw [countBytes, ih]
    by_cases hb : b = x
    · subst hb
      have hself : (f.set (byteSymbol b).val (f[byteSymbol b] + 1))[byteSymbol b] = f[byteSymbol b] + 1 :=
        Vector.getElem_set_self (byteSymbol b).isLt
      rw [hself, List.count_cons_self, BitVec.ofNat_add, BitVec.add_assoc, BitVec.add_comm 1]
      rfl
    · have hne : (f.set (byteSymbol b).val (f[byteSymbol b] + 1))[byteSymbol x] = f[byteSymbol x] :=
        getElem_countBytes_of_ne b f fun h => hb (byteSymbol_inj.mp h).symm
      rw [hne, List.count_cons_of_ne hb]

theorem frequencyOf_eos (B : List Byte) : (frequencyOf B)[Config.eos] = 1 := by
  simp [frequencyOf, Config.eos]

theorem frequencyOf_byte (B : List Byte) (b : Byte) : (frequencyOf B)[byteSymbol b] = BitVec.ofNat 32 (B.count b) := by
  have hb : b.toNat ≠ 256 := b.isLt.ne
  simp [frequencyOf, byteSymbol, hb, List.count, BitVec.toNat_eq, BEq.beq]

theorem toNat_frequencyOf_byte {B : List Byte} {b : Byte} (h : B.count b < 2 ^ 32) :
    ((frequencyOf B)[byteSymbol b]).toNat = B.count b := by
  rw [frequencyOf_byte, BitVec.toNat_ofNat, Nat.mod_eq_of_lt h]

/-- Counting bytes from the initial table gives their table (R135). -/
theorem countBytes_freqInitial (B : List Byte) : countBytes B freqInitial = frequencyOf B := by
  have hsymbol : ∀ x : Symbol, (countBytes B freqInitial)[x] = (frequencyOf B)[x] := by
    intro x
    obtain ⟨b, rfl⟩ | rfl := eq_byteSymbol_or_eos x
    · rw [getElem_countBytes_byte, freqInitial_byte (byteSymbol_ne_eos b), frequencyOf_byte]
      exact BitVec.zero_add _
    · rw [getElem_countBytes_eos, freqInitial_eos, frequencyOf_eos]
  exact Vector.ext fun i hi => hsymbol ⟨i, hi⟩

/-! ### The state after some bytes were read and counted -/

/-- The state after FREQ_SCAN has read and counted the bytes `B` (R132). -/
def scanned (B : List Byte) (s : State) : State :=
  { s with freq := countBytes B s.freq, inPos := s.inPos + 8 * B.length, portDraws := s.portDraws.drop B.length }

theorem scanned_cons (b : Byte) (B : List Byte) (s : State) : scanned (b :: B) s = scanned B (scanned [b] s) := by
  simp [scanned, countBytes, Nat.mul_add, Nat.add_assoc, Nat.add_comm]

theorem head?_portDraws_scanned (B : List Byte) (s : State) :
    (scanned B s).portDraws.head? = s.portDraws[B.length]? := List.head?_drop

theorem count_scanned_eos (B : List Byte) (s : State) : (scanned B s).count Config.eos = s.count Config.eos :=
  getElem_countBytes_eos B s.freq

/-- No count passes `2^32 - 1` when the bytes `B` are counted (R134). -/
def CountsFit (B : List Byte) (s : State) : Prop := ∀ x : Byte, (s.count (byteSymbol x)).toNat + B.count x < 2 ^ 32

theorem CountsFit.toNat_count_scanned {B : List Byte} {s : State} (h : CountsFit B s) (x : Byte) :
    ((scanned B s).count (byteSymbol x)).toNat = (s.count (byteSymbol x)).toNat + B.count x := by
  have hx := h x
  have hcount : (scanned B s).count (byteSymbol x) = s.count (byteSymbol x) + BitVec.ofNat 32 (B.count x) :=
    getElem_countBytes_byte B s.freq x
  rw [hcount, BitVec.toNat_add, BitVec.toNat_ofNat]
  omega

theorem count_ne_countMax_iff (s : State) (b : Byte) :
    s.count (byteSymbol b) ≠ Config.countMax ↔ CountsFit [b] s := by
  have hmax : s.count (byteSymbol b) ≠ Config.countMax ↔ (s.count (byteSymbol b)).toNat + 1 < 2 ^ 32 := by
    simp only [Config.countMax]
    bv_omega
  rw [hmax]
  refine ⟨fun h x => ?_, fun h => by simpa using h b⟩
  by_cases hx : b = x
  · subst hx
    simpa using h
  · simpa [List.count_cons_of_ne hx] using (s.count (byteSymbol x)).isLt

/-- Counts fit where each byte in turn finds its count below the maximum. -/
theorem countsFit_cons {b : Byte} {B : List Byte} {s : State} :
    CountsFit (b :: B) s ↔ s.count (byteSymbol b) ≠ Config.countMax ∧ CountsFit B (scanned [b] s) := by
  have hsum (x : Byte) : (b :: B).count x = [b].count x + B.count x := List.count_append (l₁ := [b])
  rw [count_ne_countMax_iff]
  constructor
  · intro h
    have hb : CountsFit [b] s := fun x => by grind [h x]
    exact ⟨hb, fun x => by grind [h x, hb.toNat_count_scanned x]⟩
  · rintro ⟨hb, h⟩ x
    grind [h x, hb.toNat_count_scanned x]

/-! ### The bytes ahead -/

@[simp] theorem length_bytesAhead (s : State) : (bytesAhead s).length = bitsLeft s / 8 := length_bitsToBytes _ _

theorem bytesAhead_eq_nil_iff (s : State) : bytesAhead s = [] ↔ s.inBits.length < s.inPos + 8 := by
  rw [← List.length_eq_zero_iff, length_bytesAhead, bitsLeft]
  omega

/-- The next byte ahead is the one a read of 8 bits gives, and the cursor past it has the others ahead (R61, R67). -/
theorem bytesAhead_eq_cons {b : Byte} {B : List Byte} {s : State} (h : bytesAhead s = b :: B) :
    s.inPos + 8 ≤ s.inBits.length ∧ BitVec.ofNat 8 (num ((s.inBits.drop s.inPos).take 8)) = b ∧
      bytesAhead { s with inPos := s.inPos + 8 } = B := by
  have hlen : ¬ s.inBits.length < s.inPos + 8 := fun hn => by simp [(bytesAhead_eq_nil_iff s).mpr hn] at h
  have hleft : bitsLeft s / 8 = bitsLeft { s with inPos := s.inPos + 8 } / 8 + 1 := by
    simp only [bitsLeft]
    omega
  rw [bytesAhead, hleft, bitsToBytes, List.drop_drop] at h
  injection h with hb hB
  exact ⟨by omega, hb, hB⟩

theorem bytesAhead_scanned {B rest : List Byte} {s : State} (h : bytesAhead s = B ++ rest) :
    bytesAhead (scanned B s) = rest := by
  induction B generalizing s with
  | nil => exact h
  | cons b B ih =>
    obtain ⟨-, -, hB⟩ := bytesAhead_eq_cons h
    rw [scanned_cons]
    exact ih hB

/-- From the start of a stream of whole bytes, those are the bytes ahead (R66, R67). -/
theorem bytesAhead_of_start {B : List Byte} {s : State} (hb : s.inBits = bytesToBits B) (hp : s.inPos = 0) :
    bytesAhead s = B := by
  rw [bytesAhead, bitsLeft, hb, hp]
  exact wholeBytes_bytesToBits B

/-! ### One turn of FREQ_SCAN -/

theorem countByte_below {b : Byte} {s : State} (h : s.count (byteSymbol b) ≠ Config.countMax) :
    countByte b s = .done () { s with freq := countBytes [b] s.freq } := if_neg h

theorem countByte_max {b : Byte} {s : State} (h : s.count (byteSymbol b) = Config.countMax) :
    countByte b s = .raised .countOverflow s := if_pos h

theorem freqScanTurn_failing {s : State} (hp : s.portDraws.head? = some true) :
    freqScanTurn s = .raised .ioError { s with portDraws := s.portDraws.tail } := by
  simp [freqScanTurn, readOrBreak, portRead_failing 8 hp]

theorem freqScanTurn_nil {s : State} (hp : s.portDraws.head? ≠ some true) (hb : bytesAhead s = []) :
    freqScanTurn s = .done false { s with portDraws := s.portDraws.tail } := by
  simp [freqScanTurn, readOrBreak, portRead_short hp ((bytesAhead_eq_nil_iff s).mp hb)]

/-- A turn that reads a byte goes on to count it (R132). -/
theorem freqScanTurn_cons {b : Byte} {B : List Byte} {s : State} (hp : s.portDraws.head? ≠ some true)
    (hb : bytesAhead s = b :: B) :
    freqScanTurn s =
      (countByte b { s with portDraws := s.portDraws.tail, inPos := s.inPos + 8 }).andThen fun _ t => .done true t := by
  obtain ⟨hlen, rfl, -⟩ := bytesAhead_eq_cons hb
  simp [freqScanTurn, readOrBreak, portRead_data hp hlen]

theorem freqScanTurn_counted {b : Byte} {B : List Byte} {s : State} (hp : s.portDraws.head? ≠ some true)
    (hb : bytesAhead s = b :: B) (hc : s.count (byteSymbol b) ≠ Config.countMax) :
    freqScanTurn s = .done true (scanned [b] s) := by
  rw [freqScanTurn_cons hp hb, countByte_below (s := { s with portDraws := s.portDraws.tail, inPos := s.inPos + 8 }) hc,
    Run.andThen_done]
  simp [scanned]

/-- The byte whose count overflows has been read (R132). -/
theorem freqScanTurn_overflow {b : Byte} {B : List Byte} {s : State} (hp : s.portDraws.head? ≠ some true)
    (hb : bytesAhead s = b :: B) (hc : s.count (byteSymbol b) = Config.countMax) :
    freqScanTurn s = .raised .countOverflow { s with portDraws := s.portDraws.tail, inPos := s.inPos + 8 } := by
  rw [freqScanTurn_cons hp hb, countByte_max (s := { s with portDraws := s.portDraws.tail, inPos := s.inPos + 8 }) hc,
    Run.andThen_raised]

/-! ### The loop of FREQ_SCAN -/

/-- The loop reads and counts the bytes `B` where no read of them fails and no count of them overflows. -/
theorem freqScanLoop_counts {B rest : List Byte} {s : State} (n : Nat) (hb : bytesAhead s = B ++ rest)
    (hp : ∀ j, j < B.length → s.portDraws[j]? ≠ some true) (hc : CountsFit B s) :
    repeatWhile (B.length + n) freqScanTurn s = repeatWhile n freqScanTurn (scanned B s) := by
  induction B generalizing s with
  | nil => simp [scanned, countBytes]
  | cons b B ih =>
    have hhead : s.portDraws.head? ≠ some true := List.head?_eq_getElem? ▸ hp 0 (by simp)
    have hpB : ∀ j, j < B.length → (scanned [b] s).portDraws[j]? ≠ some true := fun j hj => by
      simpa [scanned] using hp (j + 1) (by simpa using hj)
    obtain ⟨hmax, hfit⟩ := countsFit_cons.mp hc
    rw [List.length_cons, Nat.add_right_comm, repeatWhile_succ, freqScanTurn_counted hhead hb hmax, Run.andThen_done,
      if_pos rfl, ih (bytesAhead_scanned (B := [b]) hb) hpB hfit, ← scanned_cons]

/-- FREQ_SCAN past the bytes `B`: the bound of R105 leaves a turn for each other byte ahead and one for the end. -/
theorem freqScanBody_eq {B rest : List Byte} {s : State} (hb : bytesAhead s = B ++ rest)
    (hp : ∀ j, j < B.length → s.portDraws[j]? ≠ some true) (hc : CountsFit B s) :
    freqScanBody s =
      (freqScanTurn (scanned B s)).andThen fun again t =>
        if again then repeatWhile rest.length freqScanTurn t else .done () t := by
  have hlen : bitsLeft s / 8 + 1 = B.length + (rest.length + 1) := by
    rw [← length_bytesAhead, hb, List.length_append, Nat.add_assoc]
  rw [freqScanBody, hlen, freqScanLoop_counts _ hb hp hc, repeatWhile_succ]

/-- Where neither a read nor a count stops it, FREQ_SCAN counts every byte ahead, and one more read finds the end. -/
theorem freqScanBody_done {s : State} (hp : ∀ j, j ≤ bitsLeft s / 8 → s.portDraws[j]? ≠ some true)
    (hc : CountsFit (bytesAhead s) s) :
    freqScanBody s =
      .done () { scanned (bytesAhead s) s with portDraws := s.portDraws.drop (bitsLeft s / 8 + 1) } := by
  rw [← length_bytesAhead] at hp ⊢
  have hb : bytesAhead s = bytesAhead s ++ [] := (List.append_nil _).symm
  rw [freqScanBody_eq hb (fun j hj => hp j hj.le) hc,
    freqScanTurn_nil (head?_portDraws_scanned _ s ▸ hp _ le_rfl) (bytesAhead_scanned hb)]
  simp [scanned]

/-- A failing read ends FREQ_SCAN after the bytes before it were counted (R132). -/
theorem freqScanBody_failing {B rest : List Byte} {s : State} (hb : bytesAhead s = B ++ rest)
    (hp : ∀ j, j < B.length → s.portDraws[j]? ≠ some true) (hf : s.portDraws[B.length]? = some true)
    (hc : CountsFit B s) :
    freqScanBody s = .raised .ioError { scanned B s with portDraws := s.portDraws.drop (B.length + 1) } := by
  rw [freqScanBody_eq hb hp hc, freqScanTurn_failing ((head?_portDraws_scanned B s).trans hf)]
  simp [scanned]

/-- A byte whose count is at its maximum once the bytes before it were counted ends FREQ_SCAN past it (R132). -/
theorem freqScanBody_overflow {B rest : List Byte} {b : Byte} {s : State} (hb : bytesAhead s = B ++ b :: rest)
    (hp : ∀ j, j ≤ B.length → s.portDraws[j]? ≠ some true) (hc : CountsFit B s)
    (hmax : (s.count (byteSymbol b)).toNat + B.count b = 2 ^ 32 - 1) :
    freqScanBody s = .raised .countOverflow { scanned B s with
      inPos := s.inPos + 8 * (B.length + 1), portDraws := s.portDraws.drop (B.length + 1) } := by
  have hcount : (scanned B s).count (byteSymbol b) = Config.countMax :=
    BitVec.eq_of_toNat_eq ((hc.toNat_count_scanned b).trans hmax)
  rw [freqScanBody_eq hb (fun j hj => hp j hj.le) hc,
    freqScanTurn_overflow (head?_portDraws_scanned B s ▸ hp _ le_rfl) (bytesAhead_scanned hb) hcount]
  simp [scanned, Nat.mul_add, Nat.add_assoc]

/-- A loop that ends without an error has counted every byte ahead, none at its maximum. -/
theorem freqScanLoop_eq_done {n : Nat} {s u : State} (h : repeatWhile n freqScanTurn s = .done () u) :
    CountsFit (bytesAhead s) s ∧ u.freq = countBytes (bytesAhead s) s.freq := by
  induction n generalizing s with
  | zero => cases h
  | succ n ih =>
    rw [repeatWhile_succ] at h
    by_cases hp : s.portDraws.head? = some true
    · rw [freqScanTurn_failing hp] at h
      cases h
    cases hb : bytesAhead s with
    | nil =>
      rw [freqScanTurn_nil hp hb] at h
      cases h
      exact ⟨fun x => by simp [(s.count (byteSymbol x)).isLt], rfl⟩
    | cons b B =>
      by_cases hc : s.count (byteSymbol b) = Config.countMax
      · rw [freqScanTurn_overflow hp hb hc] at h
        cases h
      · rw [freqScanTurn_counted hp hb hc] at h
        obtain ⟨hfit, hfreq⟩ := ih h
        rw [bytesAhead_scanned (B := [b]) hb] at hfit hfreq
        exact ⟨countsFit_cons.mpr ⟨hc, hfit⟩, hfreq⟩

end Sys2Proof.Machine
end

section
/-! PROOF. The frequency table commands (R130 to R135): their words, and what each leaves. -/

namespace Sys2Proof.Machine

/-! ### Words with a SYM operand -/

/-- The fields of the word of R95 made of an opcode and a SYM operand, WORD zero. -/
theorem fields_of_eq_or_shiftLeft {w : Word} {op : BitVec 8} {v : BitVec 9}
    (hw : w = op.setWidth 32 ||| (v.setWidth 32 <<< 8)) :
    opcodeField w = op ∧ symField w = v ∧ wordField w = 0 ∧ rsvField w = 0 := by
  have happend : (0 : BitVec 12) ++ (0 : BitVec 3) ++ v ++ op = w := by
    rw [append_eq_or_shiftLeft, hw]
    exact BitVec.or_zero
  exact happend ▸ Laws.EncodedFields.fields_append 0 v op

/-- FREQ_ADD's word with any SYM operand (R93, R131). -/
theorem decodeWord_freqAdd (v : BitVec 9) :
    decodeWord (0x00000011#32 ||| (v.setWidth 32 <<< 8)) = decodeByteForm v 0 := by
  obtain ⟨hop, hs, hk, hr⟩ :=
    fields_of_eq_or_shiftLeft (w := 0x00000011#32 ||| (v.setWidth 32 <<< 8)) (op := 0x11) rfl
  simp only [decodeWord, hop, hs, hk, hr]
  rfl

/-- FREQ_READ's word with any SYM operand (R93, R133). -/
theorem decodeWord_freqRead (v : BitVec 9) :
    decodeWord (0x00000013#32 ||| (v.setWidth 32 <<< 8)) = decodeSymbolForm .freqRead v 0 := by
  obtain ⟨hop, hs, hk, hr⟩ :=
    fields_of_eq_or_shiftLeft (w := 0x00000013#32 ||| (v.setWidth 32 <<< 8)) (op := 0x13) rfl
  simp only [decodeWord, hop, hs, hk, hr]
  rfl

theorem decodeWord_freqAdd_byte (b : Byte) :
    decodeWord (0x00000011#32 ||| (b.setWidth 32 <<< 8)) = .command (.freqAdd b) := by
  have hw : encode (.freqAdd b) = 0x00000011#32 ||| (b.setWidth 32 <<< 8) := by
    rw [encode, append_eq_or_shiftLeft]
    simp [opcodeOf, symOperand, wordOperand]
  exact hw ▸ decodeWord_encode rfl

/-- Bit 16 is the top bit of SYM, which no byte sets (R94). -/
theorem decodeWord_freqAdd_bit16 (b : Byte) :
    decodeWord (0x00010011#32 ||| (b.setWidth 32 <<< 8)) = .illegal .byteOperandTooWide := by
  have hw : 0x00010011#32 ||| (b.setWidth 32 <<< 8) =
      0x00000011#32 ||| ((0x100 ||| b.setWidth 9).setWidth 32 <<< 8) := by
    simp [BitVec.setWidth_or, BitVec.shiftLeft_or_distrib, ← BitVec.or_assoc]
  rw [hw, decodeWord_freqAdd]
  simp [decodeByteForm]

theorem symbolInRange_symbolField (x : Symbol) : symbolInRange (symbolField x) = true := by
  simp only [symbolInRange, symbolField, BitVec.toNat_ofNat, decide_eq_true_eq]
  omega

/-! ### FREQ_ADD, FREQ_INIT and FREQ_READ -/

/-- Settles O20: the count of a byte is that of the one-byte list `[b]`. -/
theorem freqAddCounts : Obligations.FreqAddCounts := by
  intro b s
  refine ⟨decodeWord_freqAdd_byte b, decodeWord_freqAdd_bit16 b, byteSymbol_ne_eos b, fun hc => ?_, fun hc => ?_⟩
  · refine ⟨State.finish { s with freq := countBytes [b] s.freq }, congrArg endCommand (countByte_below hc), ?_,
      fun x hx => getElem_countBytes_of_ne b s.freq hx, rfl⟩
    have hadd := ((count_ne_countMax_iff s b).mp hc).toNat_count_scanned b
    rwa [List.count_singleton_self] at hadd
  · exact congrArg endCommand (countByte_max hc)

/-- Settles O24: FREQ_INIT writes the table of `freqInitial`, and FREQ_READ's result rests on whether its operand is a
symbol, for the decoder as for its meaning. -/
theorem freqInitAndReadResults : Obligations.FreqInitAndReadResults := by
  refine ⟨by decide, fun s => ⟨_, rfl, fun x => freqInitial_byte, freqInitial_eos, rfl⟩, rfl,
    fun x s => ⟨?_, ?_⟩, fun v s hv => ⟨?_, ?_⟩, fun s hi => ⟨_, rfl, hi.sentinelCount⟩⟩
  · exact (decodeWord_freqRead _).trans
      (decodeSymbolForm_eq_command_iff.mpr ⟨symbolInRange_symbolField x, rfl, rfl⟩)
  · simp only [exec, execFreqRead, freqReadBody, requireSymbol_symbolField, Run.andThen_done, endCommand_done]
    rfl
  · refine (decodeWord_freqRead v).trans ?_
    simp [decodeSymbolForm, (symbolInRange_eq_false_iff v).mpr hv]
  · simp only [exec, execFreqRead, freqReadBody, requireSymbol_of_gt hv, Run.andThen_raised, endCommand_raised]
    rfl

/-! ### FREQ_SCAN -/

theorem NoPortFailure.getElem?_ne {s : State} (h : NoPortFailure s) (j : Nat) : s.portDraws[j]? ≠ some true :=
  fun hj => Bool.noConfusion (h true (List.mem_of_getElem? hj))

/-- Settles O21: every byte ahead is counted, and the cursor stands past them. -/
theorem freqScanCountsTheInput : Obligations.FreqScanCountsTheInput := fun s hp hc =>
  ⟨_, congrArg endCommand (freqScanBody_done (fun j _ => hp.getElem?_ne j) hc), CountsFit.toNat_count_scanned hc,
    count_scanned_eos _ s, congrArg (s.inPos + 8 * ·) (length_bytesAhead s), rfl⟩

/-- Settles O22: the bytes before the stop are counted, and the turn after them is the one that raises. -/
theorem freqScanErrors : Obligations.FreqScanErrors := by
  refine ⟨fun s k hk hp hf hc => ?_, fun s B b bs hb hp hc hmax => ?_⟩
  · obtain ⟨B, rest, hb, rfl⟩ : ∃ B rest, bytesAhead s = B ++ rest ∧ B.length = k :=
      ⟨_, _, (List.take_append_drop k _).symm, by simpa using hk⟩
    rw [hb, List.take_left] at hc ⊢
    exact ⟨_, congrArg endCommand (freqScanBody_failing hb hp hf hc), rfl, CountsFit.toNat_count_scanned hc,
      count_scanned_eos B s, rfl⟩
  · exact ⟨_, congrArg endCommand (freqScanBody_overflow hb hp hc hmax), CountsFit.toNat_count_scanned hc,
      count_scanned_eos B s, rfl⟩

/-- Settles O23: a scan with no error counts every byte ahead, from the table FREQ_INIT leaves. -/
theorem freqInitThenScanCounts : Obligations.FreqInitThenScanCounts := by
  intro s B he hbits hpos
  obtain ⟨t, hinit, hframe⟩ : ∃ t, exec .freqInit s = .next t ∧ t = State.finish { s with freq := freqInitial } :=
    ⟨_, rfl, rfl⟩
  have hahead : bytesAhead t = B := bytesAhead_of_start (hframe ▸ hbits) (hframe ▸ hpos)
  have hfreq : t.freq = freqInitial := hframe ▸ rfl
  refine ⟨fun t' u ht' hu hue => ?_, fun hp hc => ?_⟩
  · cases hinit.symm.trans ht'
    obtain ⟨w, hw, rfl⟩ | ⟨e, w, -, rfl⟩ := endCommand_eq_next.mp hu
    · obtain ⟨hfit, hcounted⟩ := freqScanLoop_eq_done hw
      rw [hahead] at hfit hcounted
      have htable : w.finish.freq = frequencyOf B := hcounted.trans (hfreq ▸ countBytes_freqInitial B)
      refine ⟨fun b => ?_, ?_, htable⟩ <;> rw [State.count, htable]
      · exact toNat_frequencyOf_byte ((Nat.le_add_left _ _).trans_lt (hfit b))
      · exact frequencyOf_eos B
    · cases hue
  · have hfit : CountsFit (bytesAhead t) t := fun b => by
      rw [hahead, State.count, hfreq, freqInitial_byte (byteSymbol_ne_eos b)]
      simpa using hc b
    obtain ⟨u, hu, -, -, -, hscan⟩ := freqScanCountsTheInput t (hframe ▸ hp) hfit
    exact ⟨t, u, hinit, hu, hscan ▸ hframe ▸ he⟩

end Sys2Proof.Machine
end

section
/-! PROOF. The merges of the tree builder (R142 to R150): the least key, one turn of the loop as a step on the set of
nodes, and where the loop ends. -/

namespace Sys2Proof.Machine

/-! ### The key and the least node -/

/-- `key(i)` of R148. -/
def HeapNode.key (x : HeapNode) : ℕ ×ₗ ℕ := toLex (x.weight, x.index)

theorem HeapNode.key_lt_iff {a b : HeapNode} :
    a.key < b.key ↔ a.weight < b.weight ∨ (a.weight = b.weight ∧ a.index < b.index) := Prod.Lex.toLex_lt_toLex

theorem HeapNode.weight_le_of_key_le {a b : HeapNode} (h : a.key ≤ b.key) : a.weight ≤ b.weight :=
  Prod.Lex.monotone_fst _ _ h

theorem keyLess_iff {a b : HeapNode} : keyLess a b = true ↔ a.key < b.key := by
  simp [keyLess, HeapNode.key_lt_iff]

theorem takeMin_of_ne_nil {p : List HeapNode} (h : p ≠ []) : ∃ m rest, takeMin p = some (m, rest) := by
  obtain ⟨⟨m, rest⟩, hm⟩ := Option.ne_none_iff_exists'.mp (mt takeMin_eq_none.mp h)
  exact ⟨m, rest, hm⟩

theorem takeMin_key_le {p rest : List HeapNode} {m : HeapNode} (h : takeMin p = some (m, rest)) :
    ∀ x ∈ rest, m.key ≤ x.key := by
  induction p generalizing m rest with
  | nil => cases h
  | cons x xs ih =>
    unfold takeMin at h
    split at h
    · cases h
      simp
    · rename_i m' rest' hxs
      split at h <;> rename_i hlt <;> cases h
      · exact List.forall_mem_cons.mpr ⟨(keyLess_iff.mp hlt).le, ih hxs⟩
      · have hx : x.key ≤ m'.key := not_lt.mp (mt keyLess_iff.mpr hlt)
        intro y hy
        obtain rfl | hy := List.mem_cons.mp ((takeMin_perm hxs).mem_iff.mp hy)
        · exact hx
        · exact hx.trans (ih hxs y hy)

theorem HeapNode.eq_of_key_eq {p : List HeapNode} (hd : (p.map HeapNode.index).Nodup) {a b : HeapNode} (ha : a ∈ p)
    (hb : b ∈ p) (h : a.key = b.key) : a = b :=
  List.inj_on_of_nodup_map hd ha hb (congrArg (fun k => (ofLex k).2) h)

/-- Settles O29: the removal keeps every node, and where indices are distinct no other node shares the least key. -/
theorem removeMinTakesTheLeastKey : Obligations.RemoveMinTakesTheLeastKey := by
  intro p hp hd
  obtain ⟨m, rest, h⟩ := takeMin_of_ne_nil hp
  have hperm := takeMin_perm h
  refine ⟨m, rest, h, hperm, fun x hx => HeapNode.key_lt_iff.mp ?_⟩
  have hdm : ((m :: rest).map HeapNode.index).Nodup := (hperm.map _).nodup hd
  refine (takeMin_key_le h x hx).lt_of_ne fun hk => ?_
  obtain rfl := HeapNode.eq_of_key_eq hdm (List.mem_cons_self) (List.mem_cons_of_mem m hx) hk
  exact (List.nodup_cons.mp hdm).1 (List.mem_map_of_mem hx)

/-! ### One merge -/

/-- One turn of R150's loop on P as a set: `a`, then `b` have the least keys, and their merge takes their place. -/
def MergeStep (next : Nat) (p q : List HeapNode) : Prop :=
  ∃ a b rest, p.Perm (a :: b :: rest) ∧ (∀ x ∈ b :: rest, a.key ≤ x.key) ∧ (∀ x ∈ rest, b.key ≤ x.key) ∧
    q.Perm (mergeNodes next a b :: rest)

theorem MergeStep.lengths {next : Nat} {p q : List HeapNode} (h : MergeStep next p q) :
    p.length = q.length + 1 ∧ 0 < q.length := by
  obtain ⟨a, b, rest, hp, -, -, hq⟩ := h
  simp [hp.length_eq, hq.length_eq]

theorem mergeAll_of_length_lt_two {p : List HeapNode} (h : p.length < 2) (fuel next : Nat) :
    mergeAll fuel next p = p := by
  match fuel, p, h with
  | 0, _, _ => rfl
  | fuel + 1, [], _ => rfl
  | fuel + 1, [x], _ => rfl

theorem mergeAll_succ {p : List HeapNode} (h : 2 ≤ p.length) (fuel next : Nat) :
    ∃ q, MergeStep next p q ∧ mergeAll (fuel + 1) next p = mergeAll fuel (next + 1) q := by
  obtain ⟨a, p₁, ha⟩ := takeMin_of_ne_nil (List.ne_nil_of_length_pos (by omega : 0 < p.length))
  have hpa := takeMin_perm ha
  have hlen : p.length = p₁.length + 1 := hpa.length_eq
  obtain ⟨b, p₂, hb⟩ := takeMin_of_ne_nil (List.ne_nil_of_length_pos (by omega : 0 < p₁.length))
  have hpb := takeMin_perm hb
  refine ⟨p₂ ++ [mergeNodes next a b], ⟨a, b, p₂, hpa.trans (hpb.cons a), fun x hx => ?_, takeMin_key_le hb,
    List.perm_append_singleton _ _⟩, by simp only [mergeAll, ha, hb]⟩
  exact takeMin_key_le ha x (hpb.mem_iff.mpr hx)

/-- What a turn of the loop can do. -/
theorem mergeAll_succ_cases (fuel next : Nat) (p : List HeapNode) :
    (p.length < 2 ∧ mergeAll (fuel + 1) next p = p) ∨
    ∃ q, MergeStep next p q ∧ mergeAll (fuel + 1) next p = mergeAll fuel (next + 1) q := by
  obtain h | h := lt_or_ge p.length 2
  · exact .inl ⟨h, mergeAll_of_length_lt_two h _ _⟩
  · exact .inr (mergeAll_succ h fuel next)

/-- The loop ends with one node: each merge leaves one node less. -/
theorem mergeAll_length {fuel : Nat} {p : List HeapNode} (hp : 0 < p.length) (hf : p.length ≤ fuel + 1) (next : Nat) :
    (mergeAll fuel next p).length = 1 := by
  induction fuel generalizing next p with
  | zero => exact le_antisymm hf hp
  | succ fuel ih =>
    obtain ⟨hlt, he⟩ | ⟨q, hq, he⟩ := mergeAll_succ_cases fuel next p <;> rw [he]
    · omega
    · obtain ⟨hlen, hpos⟩ := hq.lengths
      exact ih hpos (by omega) _

/-! ### The leaves -/

@[simp] theorem length_allSymbols : allSymbols.length = 257 := List.length_finRange

theorem nodup_allSymbols : allSymbols.Nodup := List.nodup_finRange 257

theorem mem_leafNodes {freq : Vector Word 257} {x : HeapNode} (h : x ∈ leafNodes freq) :
    ∃ y, x.tree = .leaf y ∧ x.weight = freq[y].toNat := by
  obtain ⟨p, -, rfl⟩ := List.mem_map.mp h
  exact ⟨p.1, rfl, rfl⟩

theorem map_weight_leafNodes (freq : Vector Word 257) :
    (leafNodes freq).map HeapNode.weight = (allSymbols.filter fun x => freq[x] ≠ 0).map fun x => freq[x].toNat := by
  have h := congrArg (List.map fun x : Symbol => freq[x].toNat)
    (List.zipIdx_map_fst 0 (allSymbols.filter fun x => freq[x] ≠ 0))
  rw [List.map_map] at h
  rw [leafNodes, List.map_map]
  exact h

theorem map_index_leafNodes (freq : Vector Word 257) :
    (leafNodes freq).map HeapNode.index = List.range (leafNodes freq).length := by
  rw [leafNodes, List.map_map, List.length_map, List.length_zipIdx, List.range_eq_range']
  exact List.zipIdx_map_snd _ _

theorem length_leafNodes (freq : Vector Word 257) :
    (leafNodes freq).length = (allSymbols.filter fun x => freq[x] ≠ 0).length := by
  simp [leafNodes]

/-- A symbol with a count has a leaf, so P is never empty (R150). -/
theorem leafNodes_length_pos {freq : Vector Word 257} {y : Symbol} (h : freq[y] ≠ 0) : 0 < (leafNodes freq).length := by
  rw [length_leafNodes]
  exact List.length_pos_of_mem (List.mem_filter.mpr ⟨List.mem_finRange y, decide_eq_true h⟩)

theorem counted_eos {freq : Vector Word 257} (hf : freq[Config.eos] = 1) : freq[Config.eos] ≠ 0 := by
  rw [hf]; decide

theorem finalHeap_length {freq : Vector Word 257} (hf : freq[Config.eos] = 1) : (finalHeap freq).length = 1 :=
  mergeAll_length (leafNodes_length_pos (counted_eos hf)) (Nat.le_succ _) _

theorem buildTree_of_eos {freq : Vector Word 257} (hf : freq[Config.eos] = 1) : ∃ t, buildTree freq = some t := by
  obtain ⟨x, hx⟩ := List.length_eq_one_iff.mp (finalHeap_length hf)
  exact ⟨x.tree, by simp [buildTree, hx]⟩

/-! ### The built tree -/

theorem treeInternal_add_one (t : Tree) : treeInternal t + 1 = (treeLeaves t).length := by
  induction t with
  | leaf x => rfl
  | node l r ihl ihr =>
    simp only [treeInternal, treeLeaves, List.length_append]
    omega

theorem treeDepth_add_one_le (t : Tree) : treeDepth t + 1 ≤ (treeLeaves t).length := by
  induction t with
  | leaf x => exact le_rfl
  | node l r ihl ihr =>
    simp only [treeDepth, treeLeaves, List.length_append]
    omega

theorem isLeaf_iff_length_treeLeaves (t : Tree) : (∃ x, t = .leaf x) ↔ (treeLeaves t).length = 1 := by
  rw [← treeInternal_add_one]
  cases t <;> simp [treeInternal]

/-- Settles O25: the merges keep the leaves, which are the counted symbols, and the numbers of nodes and the depth are
those of any full binary tree with these leaves. -/
theorem builtTreeProperties : Obligations.BuiltTreeProperties := by
  intro freq hf
  obtain ⟨t, ht⟩ := buildTree_of_eos hf
  have hp := buildTree_leaves ht
  obtain ⟨hsize, hroot⟩ := legalTree_iff.mp (buildTree_legal hf ht)
  have hnodes := treeSize_add_one t
  have hdepth := treeDepth_add_one_le t
  have heos : (treeLeaves t).count Config.eos = 1 := by
    refine (hp.count_eq _).trans (List.count_eq_one_of_mem (nodup_allSymbols.filter _) (List.mem_filter.mpr ?_))
    exact ⟨List.mem_finRange _, decide_eq_true (counted_eos hf)⟩
  refine ⟨t, ht, hp, by omega, treeInternal_add_one t, hnodes, hsize, heos, isLeaf_iff_length_treeLeaves t, ?_, hdepth,
    by omega⟩
  intro h1
  obtain ⟨x, rfl⟩ := (isLeaf_iff_length_treeLeaves t).mpr h1
  exact congrArg Tree.leaf (beq_iff_eq.mp hroot)

theorem treeBuildBody_eq_done {s : State} {t : Tree} (h : buildTree s.freq = some t) :
    treeBuildBody s = .done () (State.installTree t { s with
      codesValid := false, heap := (finalHeap s.freq).map fun x => BitVec.ofNat 10 x.index }) := by
  rw [treeBuildBody, h]

/-- Settles O26: the merges end with one node, so there is a tree to install. -/
theorem treeBuildInstallsTheTree : Obligations.TreeBuildInstallsTheTree := by
  intro s hs
  obtain ⟨tree, ht⟩ := buildTree_of_eos hs
  refine ⟨_, tree, congrArg endCommand (treeBuildBody_eq_done ht), ht, ?_, rfl⟩
  exact (List.length_map _).trans (finalHeap_length hs)

/-! ### Weights -/

/-- The sum of the weights in P. -/
def heapWeight (p : List HeapNode) : Nat := (p.map HeapNode.weight).sum

theorem heapWeight_perm {p q : List HeapNode} (h : p.Perm q) : heapWeight p = heapWeight q := (h.map _).sum_eq

@[simp] theorem heapWeight_cons (x : HeapNode) (p : List HeapNode) : heapWeight (x :: p) = x.weight + heapWeight p :=
  rfl

@[simp] theorem weight_mergeNodes (next : Nat) (a b : HeapNode) :
    (mergeNodes next a b).weight = a.weight + b.weight := rfl

/-- A merge keeps the sum of the weights (R142). -/
theorem MergeStep.heapWeight_eq {next : Nat} {p q : List HeapNode} (h : MergeStep next p q) :
    heapWeight q = heapWeight p := by
  obtain ⟨a, b, rest, hp, -, -, hq⟩ := h
  rw [heapWeight_perm hp, heapWeight_perm hq]
  simp [Nat.add_assoc]

theorem heapWeight_mergeAll (fuel next : Nat) (p : List HeapNode) :
    heapWeight (mergeAll fuel next p) = heapWeight p := by
  induction fuel generalizing next p with
  | zero => rfl
  | succ fuel ih =>
    obtain ⟨-, he⟩ | ⟨q, hq, he⟩ := mergeAll_succ_cases fuel next p <;> rw [he]
    exact (ih _ _).trans hq.heapWeight_eq

/-- The leaves of the counted symbols weigh no more than all counts. -/
theorem heapWeight_leafNodes_le (freq : Vector Word 257) :
    heapWeight (leafNodes freq) ≤ (allSymbols.map fun y => freq[y].toNat).sum := by
  rw [heapWeight, map_weight_leafNodes]
  exact (List.filter_sublist.map _).sum_le_sum fun _ _ => Nat.zero_le _

theorem sum_counts_le (freq : Vector Word 257) :
    (allSymbols.map fun y => freq[y].toNat).sum ≤ 257 * (2 ^ 32 - 1) := by
  have h := List.sum_le_card_nsmul (allSymbols.map fun y => freq[y].toNat) (2 ^ 32 - 1) fun n hn => by
    obtain ⟨y, -, rfl⟩ := List.mem_map.mp hn
    have := freq[y].isLt
    omega
  simpa using h

/-- Settles O28: the merges keep the sum of the weights, and no node weighs more than that. -/
theorem weightsNeverOverflow : Obligations.WeightsNeverOverflow := by
  refine fun freq => ⟨fun x hx => ?_, fun _ _ _ => rfl, fun fuel x hx => ?_⟩
  · obtain ⟨y, ht, hw⟩ := mem_leafNodes hx
    exact ⟨y, ht, hw, hw ▸ freq[y].isLt⟩
  · have hsum : x.weight ≤ (allSymbols.map fun y => freq[y].toNat).sum :=
      calc x.weight ≤ heapWeight (mergeAll fuel _ (leafNodes freq)) :=
            List.single_le_sum (fun _ _ => Nat.zero_le _) _ (List.mem_map_of_mem hx)
        _ = heapWeight (leafNodes freq) := heapWeight_mergeAll _ _ _
        _ ≤ _ := heapWeight_leafNodes_le freq
    have hmax := hsum.trans (sum_counts_le freq)
    exact ⟨hsum, hmax, hmax.trans_lt (by norm_num [Config.weightWidth])⟩

end Sys2Proof.Machine
end

section
/-! PROOF. The binary heap of R145 and R146 realizes the set of R150 (R147): its entries are those of the set, and each
slot's key is at least its parent's. A heap is read through `keyAt`, the key in each slot, with the top key in the slots
past its end, so that the loops need no bounds. -/

namespace Sys2Proof.Machine

/-! ### The key in a slot -/

/-- The key in slot `i`, the top where there is no entry. -/
def keyAt (h : List HeapNode) (i : Nat) : WithTop (ℕ ×ₗ ℕ) := (h[i]?.map HeapNode.key : Option (ℕ ×ₗ ℕ))

theorem keyAt_of_lt {h : List HeapNode} {i : Nat} (hi : i < h.length) : keyAt h i = (h[i].key : WithTop (ℕ ×ₗ ℕ)) := by
  rw [keyAt, List.getElem?_eq_getElem hi]
  rfl

theorem keyAt_of_length_le {h : List HeapNode} {i : Nat} (hi : h.length ≤ i) : keyAt h i = ⊤ := by
  rw [keyAt, List.getElem?_eq_none hi]
  rfl

theorem lt_length_of_keyAt_lt {h : List HeapNode} {i : Nat} {k : WithTop (ℕ ×ₗ ℕ)} (hk : keyAt h i < k) :
    i < h.length := by
  by_contra hi
  rw [keyAt_of_length_le (not_lt.mp hi)] at hk
  exact not_top_lt hk

/-- The loops of R145 and R146 compare a slot only with one before it. -/
theorem entryLess_iff {h : List HeapNode} {i j : Nat} (hji : j ≤ i) :
    entryLess h i j = true ↔ keyAt h i < keyAt h j := by
  obtain hi | hi := lt_or_ge i h.length
  · have hj : j < h.length := hji.trans_lt hi
    rw [keyAt_of_lt hi, keyAt_of_lt hj, WithTop.coe_lt_coe, ← keyLess_iff, entryLess, List.getElem?_eq_getElem hi,
      List.getElem?_eq_getElem hj]
  · rw [keyAt_of_length_le hi, entryLess, List.getElem?_eq_none hi]
    simp

section Swap
variable {h : List HeapNode} {i j : Nat} (hi : i < h.length) (hj : j < h.length)
include hi hj

theorem swapEntries_eq : swapEntries h i j = (h.set i h[j]).set j h[i] := by
  rw [swapEntries, List.getElem?_eq_getElem hi, List.getElem?_eq_getElem hj]

theorem swapEntries_perm : (swapEntries h i j).Perm h := by
  rw [swapEntries_eq hi hj]
  exact List.set_set_perm hi hj

theorem getElem?_swapEntries (k : Nat) : (swapEntries h i j)[k]? = h[Equiv.swap i j k]? := by
  rw [swapEntries_eq hi hj, Equiv.swap_apply_def]
  split_ifs with hki hkj
  · subst hki
    by_cases hkj : j = k <;> simp [*]
  · subst hkj
    simp [hj]
  · simp [Ne.symm hki, Ne.symm hkj]

/-- A swap of two entries swaps their keys. -/
theorem keyAt_swapEntries : keyAt (swapEntries h i j) = keyAt h ∘ Equiv.swap i j :=
  funext fun k => by rw [Function.comp_apply, keyAt, keyAt, getElem?_swapEntries hi hj]

end Swap

/-! ### The heap order -/

/-- No slot's key is below its parent's; slot 0 is its own parent here. -/
def HeapOrdered (f : Nat → WithTop (ℕ ×ₗ ℕ)) : Prop := ∀ i, f ((i - 1) / 2) ≤ f i

/-- The first slot has the least key. -/
theorem HeapOrdered.root_le {f : Nat → WithTop (ℕ ×ₗ ℕ)} (hf : HeapOrdered f) (i : Nat) : f 0 ≤ f i := by
  induction i using Nat.strong_induction_on with
  | _ i ih =>
    obtain rfl | hi := Nat.eq_zero_or_pos i
    · rfl
    · exact (ih ((i - 1) / 2) (by omega)).trans (hf i)

/-- The invariant of R145's loop: ordered but for slot `j`, which may be below its parent. -/
structure OrderedAbove (f : Nat → WithTop (ℕ ×ₗ ℕ)) (j : Nat) : Prop where
  others : ∀ i, i ≠ j → f ((i - 1) / 2) ≤ f i
  children : ∀ i, (i - 1) / 2 = j → f ((j - 1) / 2) ≤ f i

/-- The invariant of R146's loop: ordered but for slot `j`, which may be above its children. -/
structure OrderedBelow (f : Nat → WithTop (ℕ ×ₗ ℕ)) (j : Nat) : Prop where
  others : ∀ i, (i - 1) / 2 ≠ j → f ((i - 1) / 2) ≤ f i
  children : 0 < j → ∀ i, (i - 1) / 2 = j → f ((j - 1) / 2) ≤ f i

section Turns
variable {f : Nat → WithTop (ℕ ×ₗ ℕ)} {j : Nat}

/-- A turn of R145's loop: the entry goes to its parent's slot `p`. -/
theorem OrderedAbove.swap_parent {p : Nat} (hf : OrderedAbove f j) (hp : (j - 1) / 2 = p) (hj : 0 < j)
    (hlt : f j < f p) : OrderedAbove (f ∘ Equiv.swap j p) p := by
  obtain ⟨hothers, hchildren⟩ := hf
  rw [hp] at hchildren
  set g := f ∘ Equiv.swap j p with hg
  have hgj : g j = f p := by simp [hg]
  have hgp : g p = f j := by simp [hg]
  have hgi (i : Nat) (hij : i ≠ j) (hip : i ≠ p) : g i = f i := by simp [hg, Equiv.swap_apply_of_ne_of_ne hij hip]
  have hsibling (i : Nat) (hi : (i - 1) / 2 = p) (hij : i ≠ j) : f p ≤ f i := hi ▸ hothers i hij
  refine ⟨fun i hip => ?_, fun i hi => ?_⟩
  · obtain rfl | hij := eq_or_ne i j
    · rw [hp, hgp, hgj]
      exact hlt.le
    rw [hgi i hij hip]
    obtain hi | hi := eq_or_ne ((i - 1) / 2) j
    · rw [hi, hgj]
      exact hchildren i hi
    obtain hi' | hi' := eq_or_ne ((i - 1) / 2) p
    · rw [hi', hgp]
      exact hlt.le.trans (hsibling i hi' hij)
    · rw [hgi _ hi hi']
      exact hothers i hij
  · have hpp : g ((p - 1) / 2) ≤ f p := by
      obtain hp0 | hp0 := Nat.eq_zero_or_pos p
      · have : (p - 1) / 2 = p := by omega
        rw [this, hgp]
        exact hlt.le
      · rw [hgi _ (by omega) (by omega)]
        exact hothers p (by omega)
    obtain rfl | hij := eq_or_ne i j
    · rwa [hgj]
    obtain rfl | hip := eq_or_ne i p
    · have : (i - 1) / 2 = i := hi
      rw [this]
    · rw [hgi i hij hip]
      exact hpp.trans (hsibling i hi hij)

/-- R145's loop ends in order. -/
theorem OrderedAbove.heapOrdered (hf : OrderedAbove f j) (hle : f ((j - 1) / 2) ≤ f j) : HeapOrdered f := fun i => by
  obtain rfl | hij := eq_or_ne i j
  · exact hle
  · exact hf.others i hij

/-- A turn of R146's loop: the entry goes to the slot of its least child. -/
theorem OrderedBelow.swap_child {m : Nat} (hf : OrderedBelow f j) (hm : (m - 1) / 2 = j) (hjm : j < m) (hlt : f m < f j)
    (hleast : ∀ i, (i - 1) / 2 = j → f m ≤ f i) : OrderedBelow (f ∘ Equiv.swap j m) m := by
  obtain ⟨hothers, hchildren⟩ := hf
  set g := f ∘ Equiv.swap j m with hg
  have hgj : g j = f m := by simp [hg]
  have hgm : g m = f j := by simp [hg]
  have hgi (i : Nat) (hij : i ≠ j) (him : i ≠ m) : g i = f i := by simp [hg, Equiv.swap_apply_of_ne_of_ne hij him]
  refine ⟨fun i hi => ?_, fun _ i hi => ?_⟩
  · obtain rfl | him := eq_or_ne i m
    · rw [hm, hgj, hgm]
      exact hlt.le
    obtain rfl | hij := eq_or_ne i j
    · obtain rfl | hi0 := Nat.eq_zero_or_pos i
      · rfl
      · rw [hgi _ (by omega) hi, hgj]
        exact hchildren hi0 m hm
    rw [hgi i hij him]
    obtain hi' | hi' := eq_or_ne ((i - 1) / 2) j
    · rw [hi', hgj]
      exact hleast i hi'
    · rw [hgi _ hi' hi]
      exact hothers i hi'
  · rw [hm, hgj, hgi i (by omega) (by omega), ← hi]
    exact hothers i (by omega)

/-- R146's loop ends in order. -/
theorem OrderedBelow.heapOrdered (hf : OrderedBelow f j) (hle : ∀ i, (i - 1) / 2 = j → f j ≤ f i) : HeapOrdered f :=
  fun i => by
  obtain hi | hi := eq_or_ne ((i - 1) / 2) j
  · rw [hi]
    exact hle i hi
  · exact hf.others i hi

end Turns

/-! ### Insertion -/

/-- R145's loop keeps the entries and puts them in order. -/
theorem siftUp_spec {fuel j : Nat} {h : List HeapNode} (hf : j ≤ fuel) (hj : j < h.length)
    (ho : OrderedAbove (keyAt h) j) : (siftUp fuel j h).Perm h ∧ HeapOrdered (keyAt (siftUp fuel j h)) := by
  induction fuel generalizing j h with
  | zero =>
    obtain rfl := Nat.le_zero.mp hf
    exact ⟨.rfl, ho.heapOrdered le_rfl⟩
  | succ fuel ih =>
    have hp : (j - 1) / 2 < h.length := by omega
    have hless : entryLess h j ((j - 1) / 2) = true ↔ keyAt h j < keyAt h ((j - 1) / 2) := entryLess_iff (by omega)
    rw [siftUp]
    split
    · rename_i hup
      obtain ⟨hpos, hlt⟩ := hup
      have hperm := swapEntries_perm hj hp
      have ho' : OrderedAbove (keyAt (swapEntries h j ((j - 1) / 2))) ((j - 1) / 2) := by
        rw [keyAt_swapEntries hj hp]
        exact ho.swap_parent rfl hpos (hless.mp hlt)
      obtain ⟨hs, hord⟩ := ih (by omega) (hperm.length_eq ▸ hp) ho'
      exact ⟨hs.trans hperm, hord⟩
    · rename_i hge
      refine ⟨.rfl, ho.heapOrdered ?_⟩
      obtain rfl | hpos := Nat.eq_zero_or_pos j
      · rfl
      · exact not_lt.mp fun hlt => hge ⟨hpos, hless.mpr hlt⟩

theorem keyAt_append_of_lt {h l : List HeapNode} {i : Nat} (hi : i < h.length) : keyAt (h ++ l) i = keyAt h i := by
  rw [keyAt, keyAt, List.getElem?_append_left hi]

/-- Insertion (R145) adds the entry and keeps the order. -/
theorem heapInsert_spec {h : List HeapNode} (ho : HeapOrdered (keyAt h)) (x : HeapNode) :
    (heapInsert h x).Perm (x :: h) ∧ HeapOrdered (keyAt (heapInsert h x)) := by
  have hpast (i : Nat) (hi : h.length < i) : keyAt (h ++ [x]) i = ⊤ := keyAt_of_length_le (by simpa using hi)
  have ho' : OrderedAbove (keyAt (h ++ [x])) h.length := by
    refine ⟨fun i hi => ?_, fun i hi => ?_⟩
    · obtain hlt | hgt := lt_or_gt_of_ne hi
      · rw [keyAt_append_of_lt hlt, keyAt_append_of_lt (by omega)]
        exact ho i
      · rw [hpast i hgt]
        exact le_top
    · obtain hgt | hle := lt_or_ge h.length i
      · rw [hpast i hgt]
        exact le_top
      · have : (h.length - 1) / 2 = i := by omega
        rw [this]
  obtain ⟨hperm, hord⟩ := siftUp_spec le_rfl (by simp) ho'
  exact ⟨hperm.trans (List.perm_append_singleton x h), hord⟩

/-! ### Removal -/

/-- The lesser of two slots, as R146's loop picks it. -/
theorem keyAt_ite_entryLess {h : List HeapNode} {c m : Nat} (hmc : m ≤ c) :
    keyAt h (if entryLess h c m then c else m) = min (keyAt h c) (keyAt h m) := by
  split <;> rename_i hlt <;> rw [entryLess_iff hmc] at hlt
  · exact (min_eq_left hlt.le).symm
  · exact (min_eq_right (not_lt.mp hlt)).symm

theorem keyAt_leastChild (h : List HeapNode) (j : Nat) :
    keyAt h (leastChild h j) = min (keyAt h (2 * j + 2)) (min (keyAt h (2 * j + 1)) (keyAt h j)) := by
  rw [leastChild, keyAt_ite_entryLess (by split <;> omega), keyAt_ite_entryLess (by omega)]

theorem keyAt_leastChild_le {h : List HeapNode} {i j : Nat} (hi : (i - 1) / 2 = j) :
    keyAt h (leastChild h j) ≤ keyAt h i := by
  obtain rfl | rfl | rfl : i = 2 * j + 1 ∨ i = 2 * j + 2 ∨ i = j := by omega
  all_goals simp [keyAt_leastChild]

/-- Where R146's loop goes on, it goes to a child with a lesser key. -/
theorem leastChild_of_ne {h : List HeapNode} {j : Nat} (hne : leastChild h j ≠ j) :
    (leastChild h j - 1) / 2 = j ∧ j < leastChild h j ∧ keyAt h (leastChild h j) < keyAt h j := by
  have hless (c m : Nat) (hmc : m ≤ c) (he : entryLess h c m = true) : keyAt h c < keyAt h m :=
    (entryLess_iff hmc).mp he
  simp only [leastChild] at hne ⊢
  split_ifs at hne ⊢ with h₁ h₂ h₂
  · exact ⟨by omega, by omega, (hless _ _ (by omega) h₂).trans (hless _ _ (by omega) h₁)⟩
  · exact ⟨by omega, by omega, hless _ _ (by omega) h₁⟩
  · exact ⟨by omega, by omega, hless _ _ (by omega) h₂⟩
  · exact absurd rfl hne

/-- R146's loop keeps the entries and puts them in order. -/
theorem siftDown_spec {fuel j : Nat} {h : List HeapNode} (hf : h.length ≤ fuel + j) (ho : OrderedBelow (keyAt h) j) :
    (siftDown fuel j h).Perm h ∧ HeapOrdered (keyAt (siftDown fuel j h)) := by
  induction fuel generalizing j h with
  | zero =>
    have hord : HeapOrdered (keyAt h) := ho.heapOrdered fun i hi => by
      obtain rfl | hij : i = j ∨ j < i := by omega
      · rfl
      · rw [keyAt_of_length_le (by omega : h.length ≤ i)]
        exact le_top
    exact ⟨.rfl, hord⟩
  | succ fuel ih =>
    rw [siftDown]
    split
    · rename_i hstop
      exact ⟨.rfl, ho.heapOrdered fun i hi => hstop ▸ keyAt_leastChild_le hi⟩
    · rename_i hne
      obtain ⟨hparent, hafter, hlt⟩ := leastChild_of_ne hne
      have hm := lt_length_of_keyAt_lt hlt
      have hj := hafter.trans hm
      have hperm := swapEntries_perm hj hm
      have ho' : OrderedBelow (keyAt (swapEntries h j (leastChild h j))) (leastChild h j) := by
        rw [keyAt_swapEntries hj hm]
        exact ho.swap_child hparent hafter hlt fun i hi => keyAt_leastChild_le hi
      obtain ⟨hs, hord⟩ := ih (by rw [hperm.length_eq]; omega) ho'
      exact ⟨hs.trans hperm, hord⟩

/-- The last entry in place of the first leaves only slot 0 out of order. -/
theorem orderedBelow_of_replaced_root {top last : HeapNode} {h : List HeapNode}
    (ho : HeapOrdered (keyAt (top :: (h ++ [last])))) : OrderedBelow (keyAt (last :: h)) 0 := by
  have hsame (i : Nat) (hpos : 0 < i) (hlt : i < h.length + 1) :
      keyAt (last :: h) i = keyAt (top :: (h ++ [last])) i := by
    obtain ⟨k, rfl⟩ := Nat.exists_eq_succ_of_ne_zero hpos.ne'
    exact (keyAt_append_of_lt (Nat.lt_of_succ_lt_succ hlt)).symm
  refine ⟨fun i hi => ?_, fun hpos => absurd hpos (lt_irrefl 0)⟩
  obtain hlt | hge := lt_or_ge i (h.length + 1)
  · rw [hsame i (by omega) hlt, hsame _ (by omega) (by omega)]
    exact ho i
  · have htop : keyAt (last :: h) i = ⊤ := keyAt_of_length_le hge
    rw [htop]
    exact le_top

theorem heapRemoveMin_cons_concat (top last : HeapNode) (h : List HeapNode) :
    heapRemoveMin (top :: (h ++ [last])) =
      some (top, siftDown (top :: (h ++ [last])).length 0 (last :: h)) := by
  have hlast : (top :: (h ++ [last])).getLast? = some last := by rw [← List.cons_append, List.getLast?_concat]
  have hdrop : (last :: (h ++ [last])).dropLast = last :: h := by rw [← List.cons_append, List.dropLast_concat]
  simp only [heapRemoveMin, List.head?_cons, hlast, List.set_cons_zero, hdrop]

/-- Removal (R146) answers an entry of least key, and leaves the others in order. -/
theorem heapRemoveMin_spec {h : List HeapNode} (hne : h ≠ []) (ho : HeapOrdered (keyAt h)) :
    ∃ m rest, heapRemoveMin h = some (m, rest) ∧ h.Perm (m :: rest) ∧ (∀ x ∈ rest, m.key ≤ x.key) ∧
      HeapOrdered (keyAt rest) := by
  obtain ⟨top, tl, rfl⟩ := List.exists_cons_of_ne_nil hne
  have hleast (x : HeapNode) (hx : x ∈ tl) : top.key ≤ x.key := by
    obtain ⟨i, hi, rfl⟩ := List.getElem_of_mem hx
    have hroot := ho.root_le (i + 1)
    rw [keyAt_of_lt (Nat.succ_pos _), keyAt_of_lt (Nat.succ_lt_succ hi)] at hroot
    exact WithTop.coe_le_coe.mp hroot
  obtain rfl | ⟨init, last, rfl⟩ := List.eq_nil_or_concat' tl
  · exact ⟨top, [], rfl, .rfl, by simp, fun _ => le_rfl⟩
  · have hlen : (last :: init).length ≤ (top :: (init ++ [last])).length + 0 := by simp
    obtain ⟨hperm, hord⟩ := siftDown_spec hlen (orderedBelow_of_replaced_root ho)
    have htl := hperm.trans (List.perm_append_singleton last init).symm
    refine ⟨top, _, ?_, (htl.cons top).symm, fun x hx => hleast x (htl.mem_iff.mp hx), hord⟩
    exact heapRemoveMin_cons_concat top last init

/-! ### The merges on the heap -/

theorem heapMergeAll_of_length_lt_two {h : List HeapNode} (hlen : h.length < 2) (fuel next : Nat) :
    heapMergeAll fuel next h = h := by
  cases fuel with
  | zero => rfl
  | succ fuel => rw [heapMergeAll, if_pos hlen]

/-- A turn of R150's loop on the heap makes the merge it makes on a set, and keeps the heap in order. -/
theorem heapMergeAll_succ {h : List HeapNode} (hlen : 2 ≤ h.length) (ho : HeapOrdered (keyAt h)) (fuel next : Nat) :
    ∃ q, MergeStep next h q ∧ HeapOrdered (keyAt q) ∧
      heapMergeAll (fuel + 1) next h = heapMergeAll fuel (next + 1) q := by
  obtain ⟨a, h₁, ha, hpa, hleast, ho₁⟩ := heapRemoveMin_spec (List.ne_nil_of_length_pos (by omega)) ho
  have hlen₁ : h.length = h₁.length + 1 := hpa.length_eq
  obtain ⟨b, h₂, hb, hpb, hleast₁, ho₂⟩ := heapRemoveMin_spec (List.ne_nil_of_length_pos (by omega)) ho₁
  obtain ⟨hperm, hord⟩ := heapInsert_spec ho₂ (mergeNodes next a b)
  refine ⟨_, ⟨a, b, h₂, hpa.trans (hpb.cons a), fun x hx => ?_, hleast₁, hperm⟩, hord, ?_⟩
  · exact hleast x (hpb.mem_iff.mpr hx)
  · simp only [heapMergeAll, not_lt.mpr hlen, if_false, ha, hb]

/-- The indices in P are distinct and below that of the next node (R142). -/
def FreshIndices (next : Nat) (p : List HeapNode) : Prop :=
  (p.map HeapNode.index).Nodup ∧ ∀ x ∈ p, x.index < next

theorem FreshIndices.perm {next : Nat} {p q : List HeapNode} (hf : FreshIndices next p) (h : p.Perm q) :
    FreshIndices next q :=
  ⟨(h.map _).nodup hf.1, fun x hx => hf.2 x (h.mem_iff.mpr hx)⟩

theorem freshIndices_leafNodes (freq : Vector Word 257) : FreshIndices (leafNodes freq).length (leafNodes freq) := by
  refine ⟨map_index_leafNodes freq ▸ List.nodup_range, fun x hx => List.mem_range.mp ?_⟩
  exact map_index_leafNodes freq ▸ List.mem_map_of_mem hx

theorem MergeStep.freshIndices {next : Nat} {p q : List HeapNode} (h : MergeStep next p q)
    (hf : FreshIndices next p) : FreshIndices (next + 1) q := by
  obtain ⟨a, b, rest, hp, -, -, hq⟩ := h
  obtain ⟨hd, hlt⟩ := hf.perm hp
  have hlt' (x : HeapNode) (hx : x ∈ rest) : x.index < next := hlt x (by simp [hx])
  have hnew : next ∉ rest.map HeapNode.index := fun hm => by
    obtain ⟨x, hx, hi⟩ := List.mem_map.mp hm
    exact (hlt' x hx).ne hi
  have hfresh : FreshIndices (next + 1) (mergeNodes next a b :: rest) :=
    ⟨List.nodup_cons.mpr ⟨hnew, hd.of_cons.of_cons⟩,
      List.forall_mem_cons.mpr ⟨Nat.lt_succ_self next, fun x hx => (hlt' x hx).trans (Nat.lt_succ_self next)⟩⟩
  exact hfresh.perm hq.symm

/-- With distinct indices the node of least key is the same however P is listed (R147). -/
theorem least_unique {a a' : HeapNode} {r r' : List HeapNode} (hd : ((a :: r).map HeapNode.index).Nodup)
    (hp : (a :: r).Perm (a' :: r')) (ha : ∀ x ∈ r, a.key ≤ x.key) (ha' : ∀ x ∈ r', a'.key ≤ x.key) :
    a = a' ∧ r.Perm r' := by
  have hmem : a' ∈ a :: r := hp.mem_iff.mpr List.mem_cons_self
  have hmem' : a ∈ a' :: r' := hp.mem_iff.mp List.mem_cons_self
  have hle : a.key ≤ a'.key := (List.mem_cons.mp hmem).elim (fun h => h ▸ le_rfl) (ha a')
  have hge : a'.key ≤ a.key := (List.mem_cons.mp hmem').elim (fun h => h ▸ le_rfl) (ha' a)
  obtain rfl := HeapNode.eq_of_key_eq hd List.mem_cons_self hmem (hle.antisymm hge)
  exact ⟨rfl, hp.cons_inv⟩

/-- A merge is the same however P is listed (R147). -/
theorem MergeStep.perm {next : Nat} {p p' q q' : List HeapNode} (hf : FreshIndices next p) (hpp : p.Perm p')
    (h : MergeStep next p q) (h' : MergeStep next p' q') : q.Perm q' := by
  obtain ⟨a, b, rest, hp, ha, hb, hq⟩ := h
  obtain ⟨a', b', rest', hp', ha', hb', hq'⟩ := h'
  obtain ⟨hd, -⟩ := hf.perm hp
  obtain ⟨rfl, hr₁⟩ := least_unique hd (hp.symm.trans (hpp.trans hp')) ha ha'
  obtain ⟨rfl, hr₂⟩ := least_unique hd.of_cons hr₁ hb hb'
  exact hq.trans ((hr₂.cons _).trans hq'.symm)

/-- The heap simulates the set: the merges on either leave the same nodes. -/
theorem heapMergeAll_perm {h p : List HeapNode} (fuel next : Nat) (ho : HeapOrdered (keyAt h)) (hp : h.Perm p)
    (hf : FreshIndices next h) : (heapMergeAll fuel next h).Perm (mergeAll fuel next p) := by
  induction fuel generalizing next h p with
  | zero => exact hp
  | succ fuel ih =>
    obtain hlt | hge := lt_or_ge h.length 2
    · rwa [heapMergeAll_of_length_lt_two hlt, mergeAll_of_length_lt_two (hp.length_eq ▸ hlt)]
    · obtain ⟨q, hq, hoq, he⟩ := heapMergeAll_succ hge ho fuel next
      obtain ⟨q', hq', he'⟩ := mergeAll_succ (hp.length_eq ▸ hge) fuel next
      rw [he, he']
      exact ih (next + 1) hoq (MergeStep.perm hf hp hq hq') (hq.freshIndices hf)

theorem foldl_heapInsert_spec (l : List HeapNode) {h : List HeapNode} (ho : HeapOrdered (keyAt h)) :
    (l.foldl heapInsert h).Perm (h ++ l) ∧ HeapOrdered (keyAt (l.foldl heapInsert h)) := by
  induction l generalizing h with
  | nil => exact ⟨by simp, ho⟩
  | cons x l ih =>
    obtain ⟨hperm, hord⟩ := heapInsert_spec ho x
    obtain ⟨hl, hordl⟩ := ih hord
    exact ⟨hl.trans ((hperm.append_right l).trans List.perm_middle.symm), hordl⟩

/-- The heap of the leaves holds the leaves, in order (R141, R145). -/
theorem heapOfLeaves_spec (freq : Vector Word 257) :
    (heapOfLeaves freq).Perm (leafNodes freq) ∧ HeapOrdered (keyAt (heapOfLeaves freq)) :=
  foldl_heapInsert_spec (leafNodes freq) fun _ => le_rfl

/-- Settles O27: from the leaves on, the heap is in order and holds the nodes of the set; so where one node is left in
one, that node is left in the other. -/
theorem heapRealizationBuildsTheSameTree : Obligations.HeapRealizationBuildsTheSameTree := by
  intro freq
  obtain ⟨hp, ho⟩ := heapOfLeaves_spec freq
  have hperm := heapMergeAll_perm (leafNodes freq).length (leafNodes freq).length ho hp
    ((freshIndices_leafNodes freq).perm hp.symm)
  rw [heapBuildTree, buildTree, finalHeap]
  generalize heapMergeAll _ _ _ = h at hperm ⊢
  generalize mergeAll _ _ _ = p at hperm ⊢
  obtain _ | ⟨x, _ | ⟨y, p⟩⟩ := p
  · obtain rfl := hperm.eq_nil
    rfl
  · obtain rfl := List.perm_singleton.mp hperm
    rfl
  · obtain _ | ⟨x', _ | ⟨y', h⟩⟩ := h
    · exact absurd hperm.length_eq (by simp)
    · exact absurd hperm.length_eq (by simp)
    · rfl

end Sys2Proof.Machine
end

section
/-! PROOF. The greedy merge is optimal (R152). A tree is read as the multiset of its leaves' (count, depth) pairs, of
which only Kraft's inequality matters: with it, the two least counts can be moved to the two greatest depths, and then
be merged one level up. -/

namespace Sys2Proof.Machine

/-! ### The cost of a tree -/

/-- The sum of the counts of a tree's leaves: the weight of its root (R142). -/
def treeWeight (freq : Vector Word 257) : Tree → Nat
  | .leaf x => freq[x].toNat
  | .node l r => treeWeight freq l + treeWeight freq r

/-- A tree one level deeper costs its weight more. -/
theorem treeCost_succ (freq : Vector Word 257) (d : Nat) (t : Tree) :
    treeCost freq (d + 1) t = treeCost freq d t + treeWeight freq t := by
  induction t generalizing d with
  | leaf x => rfl
  | node l r ihl ihr =>
    simp only [treeCost, treeWeight, ihl, ihr]
    omega

/-- The nodes of P carry the weights of their trees (R142). -/
def WeightsExact (freq : Vector Word 257) (p : List HeapNode) : Prop := ∀ x ∈ p, x.weight = treeWeight freq x.tree

theorem weightsExact_leafNodes (freq : Vector Word 257) : WeightsExact freq (leafNodes freq) := by
  intro x hx
  obtain ⟨y, ht, hw⟩ := mem_leafNodes hx
  rw [ht, hw, treeWeight]

/-- The cost of the trees in P, each from its own root. -/
def heapCost (freq : Vector Word 257) (p : List HeapNode) : Nat := (p.map fun x => treeCost freq 0 x.tree).sum

theorem heapCost_perm (freq : Vector Word 257) {p q : List HeapNode} (h : p.Perm q) :
    heapCost freq p = heapCost freq q := (h.map _).sum_eq

theorem heapCost_leafNodes (freq : Vector Word 257) : heapCost freq (leafNodes freq) = 0 := by
  refine List.sum_eq_zero fun n hn => ?_
  obtain ⟨x, hx, rfl⟩ := List.mem_map.mp hn
  obtain ⟨y, ht, -⟩ := mem_leafNodes hx
  rw [ht]
  rfl

/-- A merge of exact weights makes an exact weight, and costs it. -/
theorem heapCost_merge {freq : Vector Word 257} {next : Nat} {p q rest : List HeapNode} {a b : HeapNode}
    (hp : p.Perm (a :: b :: rest)) (hq : q.Perm (mergeNodes next a b :: rest)) (hw : WeightsExact freq p) :
    WeightsExact freq q ∧ heapCost freq q = heapCost freq p + (a.weight + b.weight) := by
  have hw' : WeightsExact freq (a :: b :: rest) := fun x hx => hw x (hp.mem_iff.mpr hx)
  obtain ⟨ha, hb, hrest⟩ : a.weight = treeWeight freq a.tree ∧ b.weight = treeWeight freq b.tree ∧
      WeightsExact freq rest := by simpa [WeightsExact] using hw'
  constructor
  · intro x hx
    obtain rfl | hx := List.mem_cons.mp (hq.mem_iff.mp hx)
    · exact congrArg₂ (· + ·) ha hb
    · exact hrest x hx
  · rw [heapCost_perm freq hp, heapCost_perm freq hq]
    simp only [heapCost, List.map_cons, List.sum_cons, mergeNodes, treeCost, treeCost_succ, ha, hb]
    omega

/-! ### Counts and depths -/

/-- The (count, depth) pair of every leaf, the root at depth `d`. -/
def leafDepths (freq : Vector Word 257) : Nat → Tree → Multiset (ℕ × ℕ)
  | d, .leaf x => {(freq[x].toNat, d)}
  | d, .node l r => leafDepths freq (d + 1) l + leafDepths freq (d + 1) r

/-- The sum of count times depth. -/
def depthCost (L : Multiset (ℕ × ℕ)) : ℕ := (L.map fun x => x.1 * x.2).sum

@[simp] theorem depthCost_cons (x : ℕ × ℕ) (L : Multiset (ℕ × ℕ)) :
    depthCost (x ::ₘ L) = x.1 * x.2 + depthCost L := by simp [depthCost]

theorem depthCost_leafDepths (freq : Vector Word 257) (d : Nat) (t : Tree) :
    depthCost (leafDepths freq d t) = treeCost freq d t := by
  induction t generalizing d with
  | leaf x => simp [leafDepths, depthCost, treeCost]
  | node l r ihl ihr =>
    rw [leafDepths, treeCost, ← ihl, ← ihr]
    simp [depthCost]

theorem map_fst_leafDepths (freq : Vector Word 257) (d : Nat) (t : Tree) :
    (leafDepths freq d t).map Prod.fst = (treeLeaves t).map fun x => freq[x].toNat := by
  induction t generalizing d with
  | leaf x => rfl
  | node l r ihl ihr => simp [leafDepths, treeLeaves, ihl, ihr]

/-- The sum of Kraft's inequality. -/
def kraftSum (ds : Multiset ℕ) : ℚ := (ds.map fun d => (1 / 2 : ℚ) ^ d).sum

@[simp] theorem kraftSum_cons (d : ℕ) (ds : Multiset ℕ) : kraftSum (d ::ₘ ds) = (1 / 2 : ℚ) ^ d + kraftSum ds := by
  simp [kraftSum]

theorem kraftSum_leafDepths (freq : Vector Word 257) (d : Nat) (t : Tree) :
    kraftSum ((leafDepths freq d t).map Prod.snd) = (1 / 2 : ℚ) ^ d := by
  induction t generalizing d with
  | leaf x => simp [leafDepths, kraftSum]
  | node l r ihl ihr =>
    have hadd : kraftSum ((leafDepths freq d (.node l r)).map Prod.snd) =
        kraftSum ((leafDepths freq (d + 1) l).map Prod.snd) + kraftSum ((leafDepths freq (d + 1) r).map Prod.snd) := by
      simp [leafDepths, kraftSum]
    rw [hadd, ihl, ihr]
    ring

/-- Depths of at most `d` sum up to a multiple of `2 ^ -d`. -/
theorem kraftSum_eq_mul {d : ℕ} {ds : Multiset ℕ} (h : ∀ e ∈ ds, e ≤ d) :
    ∃ k : ℕ, kraftSum ds = k * (1 / 2 : ℚ) ^ d := by
  induction ds using Multiset.induction with
  | empty => exact ⟨0, by simp [kraftSum]⟩
  | cons e ds ih =>
    obtain ⟨k, hk⟩ := ih fun x hx => h x (Multiset.mem_cons_of_mem hx)
    obtain ⟨c, rfl⟩ := Nat.exists_eq_add_of_le (h e (Multiset.mem_cons_self e ds))
    refine ⟨2 ^ c + k, ?_⟩
    have hc : (2 : ℚ) ^ c * (1 / 2) ^ c = 1 := by rw [← mul_pow]; norm_num
    rw [kraftSum_cons, hk, pow_add]
    push_cast
    linear_combination -(1 / 2 : ℚ) ^ e * hc

/-- A depth `D` and the greatest `d` of the others can be replaced by one depth, a level above `d`. -/
theorem kraftSum_merge {D d : ℕ} {ds : Multiset ℕ} (hd : ∀ e ∈ ds, e ≤ d)
    (h : kraftSum (D ::ₘ d ::ₘ ds) ≤ 1) : ∃ e, d = e + 1 ∧ kraftSum (e ::ₘ ds) ≤ 1 := by
  obtain ⟨k, hk⟩ := kraftSum_eq_mul hd
  have hunit : (2 : ℚ) ^ d * (1 / 2) ^ d = 1 := by rw [← mul_pow]; norm_num
  have hpos : (0 : ℚ) < (1 / 2) ^ d := by positivity
  rw [kraftSum_cons, kraftSum_cons, hk] at h
  -- Depth `D` adds something, so a whole multiple of `2 ^ -d` is still missing from 1.
  have hlt : k + 1 < 2 ^ d := by
    have hD : (0 : ℚ) < (1 / 2) ^ D := by positivity
    have : ((k + 1 : ℕ) : ℚ) * (1 / 2) ^ d < ((2 ^ d : ℕ) : ℚ) * (1 / 2) ^ d := by
      push_cast
      linarith
    exact_mod_cast lt_of_mul_lt_mul_right this hpos.le
  obtain _ | e := d
  · simp at hlt
  · refine ⟨e, rfl, ?_⟩
    have hle : ((k + 2 : ℕ) : ℚ) * (1 / 2) ^ (e + 1) ≤ ((2 ^ (e + 1) : ℕ) : ℚ) * (1 / 2) ^ (e + 1) :=
      mul_le_mul_of_nonneg_right (Nat.cast_le.mpr hlt) hpos.le
    rw [kraftSum_cons, hk]
    push_cast at hle
    have hstep : (1 / 2 : ℚ) ^ e = 2 * (1 / 2) ^ (e + 1) := by ring
    linarith

/-- The exchange: the least count can be given the greatest depth at no higher cost. -/
theorem exists_exchange {L : Multiset (ℕ × ℕ)} {a : ℕ} {R : Multiset ℕ} (hL : L.map Prod.fst = a ::ₘ R)
    (ha : ∀ w ∈ R, a ≤ w) :
    ∃ D L', L'.map Prod.fst = R ∧ L.map Prod.snd = D ::ₘ L'.map Prod.snd ∧ (∀ d ∈ L'.map Prod.snd, d ≤ D) ∧
      a * D + depthCost L' ≤ depthCost L := by
  obtain ⟨⟨a, d⟩, had, rfl⟩ := Multiset.mem_map.mp (hL ▸ Multiset.mem_cons_self a R)
  obtain ⟨L₁, rfl⟩ := Multiset.exists_cons_of_mem had
  obtain rfl : L₁.map Prod.fst = R := (Multiset.cons_inj_right a).mp (by simpa using hL)
  obtain ⟨⟨x, D⟩, hx, hmax⟩ := Multiset.exists_max_image Prod.snd (Multiset.cons_ne_zero : (a, d) ::ₘ L₁ ≠ 0)
  obtain ⟨hd, hmax⟩ := Multiset.forall_mem_cons.mp hmax
  obtain hxa | hx := Multiset.mem_cons.mp hx
  · cases hxa
    exact ⟨d, L₁, rfl, by simp, Multiset.forall_mem_map_iff.mpr hmax, by simp⟩
  · obtain ⟨L₂, rfl⟩ := Multiset.exists_cons_of_mem hx
    refine ⟨D, (x, d) ::ₘ L₂, by simp, by simp [Multiset.cons_swap], ?_, ?_⟩
    · exact Multiset.forall_mem_map_iff.mpr
        (Multiset.forall_mem_cons.mpr ⟨hd, fun y hy => hmax y (Multiset.mem_cons_of_mem hy)⟩)
    · have hax : a ≤ x := ha x (Multiset.mem_map_of_mem _ hx)
      have hswap : a * D + x * d ≤ a * d + x * D := mul_add_mul_le_mul_add_mul hax hd
      simp only [depthCost_cons]
      omega

/-- Every assignment of depths to counts has, at no higher cost, a merge of the two least counts in it. -/
theorem exists_merged_depths {L : Multiset (ℕ × ℕ)} {a b : ℕ} {R : Multiset ℕ}
    (hL : L.map Prod.fst = a ::ₘ b ::ₘ R) (ha : ∀ w ∈ b ::ₘ R, a ≤ w) (hb : ∀ w ∈ R, b ≤ w)
    (hk : kraftSum (L.map Prod.snd) ≤ 1) :
    ∃ M, M.map Prod.fst = (a + b) ::ₘ R ∧ kraftSum (M.map Prod.snd) ≤ 1 ∧ depthCost M + (a + b) ≤ depthCost L := by
  obtain ⟨D, L₁, hfst, hsnd, hD, hcost⟩ := exists_exchange hL ha
  obtain ⟨d, L₂, rfl, hsnd₁, hd, hcost₁⟩ := exists_exchange hfst hb
  rw [hsnd, hsnd₁] at hk
  obtain ⟨e, rfl, hke⟩ := kraftSum_merge hd hk
  refine ⟨(a + b, e) ::ₘ L₂, by simp, by simpa using hke, ?_⟩
  have hDe : a * (e + 1) ≤ a * D := Nat.mul_le_mul_left a (hD _ (hsnd₁ ▸ Multiset.mem_cons_self _ _))
  calc depthCost ((a + b, e) ::ₘ L₂) + (a + b) = a * (e + 1) + (b * (e + 1) + depthCost L₂) := by
        rw [depthCost_cons]
        ring
    _ ≤ a * D + depthCost L₁ := Nat.add_le_add hDe hcost₁
    _ ≤ depthCost L := hcost

/-- What the merges add to the cost is no more than what any assignment of depths to P costs. -/
theorem heapCost_mergeAll_le {freq : Vector Word 257} {p : List HeapNode} {L : Multiset (ℕ × ℕ)} (fuel next : Nat)
    (hw : WeightsExact freq p) (hL : L.map Prod.fst = p.map HeapNode.weight) (hk : kraftSum (L.map Prod.snd) ≤ 1) :
    heapCost freq (mergeAll fuel next p) ≤ heapCost freq p + depthCost L := by
  induction fuel generalizing next p L with
  | zero => exact Nat.le_add_right _ _
  | succ fuel ih =>
    obtain ⟨-, he⟩ | ⟨q, ⟨a, b, rest, hp, ha, hb, hq⟩, he⟩ := mergeAll_succ_cases fuel next p <;> rw [he]
    · exact Nat.le_add_right _ _
    have hmap : L.map Prod.fst = a.weight ::ₘ b.weight ::ₘ (rest.map HeapNode.weight : List ℕ) :=
      hL.trans (Multiset.coe_eq_coe.mpr (hp.map _))
    have hleast (x : HeapNode) (xs : List HeapNode) (hx : ∀ y ∈ xs, x.key ≤ y.key) :
        ∀ w ∈ ((xs.map HeapNode.weight : List ℕ) : Multiset ℕ), x.weight ≤ w :=
      List.forall_mem_map.mpr fun y hy => HeapNode.weight_le_of_key_le (hx y hy)
    obtain ⟨M, hM, hkM, hcost⟩ := exists_merged_depths hmap (hleast a _ ha) (hleast b _ hb) hk
    obtain ⟨hwq, hcq⟩ := heapCost_merge hp hq hw
    have hrest := ih (next + 1) hwq (hM.trans (Multiset.coe_eq_coe.mpr (hq.map HeapNode.weight).symm)) hkM
    omega

/-- Settles O30: the tree `u` assigns depths to the counts of the leaves, and the merges of the leaves, whose own cost
is 0, cost no more than these depths. -/
theorem builtTreeIsOptimal : Obligations.BuiltTreeIsOptimal := by
  intro freq hf
  obtain ⟨t, ht⟩ := buildTree_of_eos hf
  refine ⟨t, ht, buildTree_leaves ht, fun u hu => ?_⟩
  obtain ⟨x, hx, rfl⟩ := finalHeap_of_buildTree ht
  have hL : (leafDepths freq 0 u).map Prod.fst = (leafNodes freq).map HeapNode.weight := by
    rw [map_fst_leafDepths, map_weight_leafNodes]
    exact Multiset.coe_eq_coe.mpr (hu.map _)
  have hk : kraftSum ((leafDepths freq 0 u).map Prod.snd) = 1 := (kraftSum_leafDepths freq 0 u).trans (pow_zero _)
  calc treeCost freq 0 x.tree = heapCost freq (finalHeap freq) := by simp [hx, heapCost]
    _ ≤ heapCost freq (leafNodes freq) + depthCost (leafDepths freq 0 u) :=
      heapCost_mergeAll_le _ _ (weightsExact_leafNodes freq) hL hk.le
    _ = treeCost freq 0 u := by rw [heapCost_leafNodes, depthCost_leafDepths, Nat.zero_add]

end Sys2Proof.Machine
end

section
/-! PROOF. The code table of a tree (R180 to R184): the walk records each symbol's `lastPath`, a code is a path to its
symbol's leaf, and the codes of a tree with distinct leaves are prefix-free and fill the tree. -/

namespace Sys2Proof.Machine

/-! ### The last path to a symbol -/

theorem lastPath_node (x : Symbol) (l r : Tree) :
    lastPath x (.node l r) = ((lastPath x r).map (true :: ·)).or ((lastPath x l).map (false :: ·)) := by
  cases hr : lastPath x r <;> cases hl : lastPath x l <;> simp [lastPath, hr, hl]

/-- A symbol has a path exactly when it has a leaf (R180). -/
theorem lastPath_eq_none_iff {x : Symbol} {t : Tree} : lastPath x t = none ↔ x ∉ treeLeaves t := by
  induction t with
  | leaf y => simp [lastPath, treeLeaves, eq_comm]
  | node l r ihl ihr => simp [lastPath_node, treeLeaves, ihl, ihr, and_comm]

/-- The path leads to a leaf of its symbol (R183). -/
theorem subtree_of_lastPath {x : Symbol} {t : Tree} {c : Bits} (h : lastPath x t = some c) :
    subtree t c = some (.leaf x) := by
  induction t generalizing c with
  | leaf y =>
    obtain ⟨rfl, rfl⟩ : y = x ∧ c = [] := by simpa [lastPath, eq_comm] using h
    rfl
  | node l r ihl ihr =>
    rw [lastPath_node, Option.or_eq_some_iff, Option.map_eq_some_iff, Option.map_eq_some_iff] at h
    obtain ⟨p, hp, rfl⟩ | ⟨-, p, hp, rfl⟩ := h
    · exact ihr hp
    · exact ihl hp

/-! ### The walk -/

/-- The walk records the last path to each symbol below the node it starts from, and leaves the other entries. -/
theorem getElem_walkCodes (t : Tree) (p : Bits) (table : Vector (Option Bits) 257) (x : Symbol) :
    (walkCodes t p table)[x] = ((lastPath x t).map (p ++ ·)).or table[x] := by
  induction t generalizing p table with
  | leaf y =>
    obtain rfl | hne := eq_or_ne y x
    · simp [walkCodes, lastPath]
    · have hval : y.val ≠ x.val := Fin.val_ne_of_ne hne
      simp [walkCodes, lastPath, hne, Vector.getElem_set_ne _ _ hval]
  | node l r ihl ihr =>
    rw [walkCodes, ihr, ihl, lastPath_node]
    simp [Option.map_or, Option.or_assoc, Function.comp_def]

/-- `codes(t)` holds the last path of every symbol (R180, R182). -/
theorem getElem_codesOf (t : Tree) (x : Symbol) : (codesOf t)[x] = lastPath x t := by
  rw [codesOf, getElem_walkCodes]
  simp [codeNone]

/-! ### Paths of a tree -/

@[simp] theorem subtree_nil (t : Tree) : subtree t [] = some t := by simp [subtree]

@[simp] theorem subtree_leaf_cons (x : Symbol) (b : Bool) (c : Bits) : subtree (.leaf x) (b :: c) = none := by
  simp [subtree]

@[simp] theorem subtree_node_cons (l r : Tree) (b : Bool) (c : Bits) :
    subtree (.node l r) (b :: c) = subtree (bif b then r else l) c := by
  cases b <;> simp [subtree]

theorem subtree_append (t : Tree) (c d : Bits) : subtree t (c ++ d) = (subtree t c).bind (subtree · d) := by
  induction c generalizing t with
  | nil => simp
  | cons b c ih =>
    cases t with
    | leaf y => simp
    | node l r => simp [ih]

/-- Nothing lies below a leaf (R108). -/
theorem subtree_leaf_eq_some_iff {x : Symbol} {d : Bits} {u : Tree} :
    subtree (.leaf x) d = some u ↔ d = [] ∧ u = .leaf x := by
  cases d <;> simp [eq_comm]

/-- A path is no longer than the tree is deep (R11). -/
theorem length_le_treeDepth {t u : Tree} {c : Bits} (h : subtree t c = some u) : c.length ≤ treeDepth t := by
  induction c generalizing t with
  | nil => exact Nat.zero_le _
  | cons b c ih =>
    cases t with
    | leaf y => simp at h
    | node l r =>
      rw [subtree_node_cons] at h
      have hchild : treeDepth (bif b then r else l) ≤ max (treeDepth l) (treeDepth r) := by cases b <;> simp
      exact Nat.succ_le_succ ((ih h).trans hchild)

/-- The leaf at the end of one path is no node of a longer path, so two paths to leaves, one a prefix of the other, lead
to the same leaf. -/
theorem eq_of_subtree_leaf_of_prefix {t : Tree} {x y : Symbol} {c d : Bits} (hc : subtree t c = some (.leaf x))
    (hd : subtree t d = some (.leaf y)) (hcd : c <+: d) : x = y := by
  obtain ⟨e, rfl⟩ := hcd
  rw [subtree_append, hc, Option.bind_some, subtree_leaf_eq_some_iff] at hd
  obtain ⟨-, hleaf⟩ := hd
  exact (Tree.leaf.inj hleaf).symm

/-- Settles O32: the codes are paths to the leaves of their symbols. Distinct leaves are not needed, since a repeated
symbol has the path of its last leaf. -/
theorem codesArePrefixFree : Obligations.CodesArePrefixFree := by
  intro t _
  simp only [getElem_codesOf]
  exact ⟨fun _ _ => subtree_of_lastPath, fun _ => lastPath_eq_none_iff, fun _ _ _ _ hne hc hd hcd =>
    hne (eq_of_subtree_leaf_of_prefix (subtree_of_lastPath hc) (subtree_of_lastPath hd) hcd)⟩

/-! ### Kraft's equation -/

/-- What a code takes of the `2 ^ n` sequences of `n` bits: those it is a prefix of; nothing without a code. -/
def codeShare (n : Nat) : Option Bits → Nat
  | some c => 2 ^ (n - c.length)
  | none => 0

/-- One bit more in front of a code halves its share. -/
theorem codeShare_succ_map_cons (n : Nat) (b : Bool) (o : Option Bits) :
    codeShare (n + 1) (o.map (b :: ·)) = codeShare n o := by
  cases o <;> simp [codeShare]

/-- A symbol with a leaf in one of the two subtrees at most has its share from there. -/
theorem codeShare_lastPath_node {x : Symbol} {l r : Tree} (n : Nat)
    (h : lastPath x l = none ∨ lastPath x r = none) :
    codeShare (n + 1) (lastPath x (.node l r)) = codeShare n (lastPath x l) + codeShare n (lastPath x r) := by
  have hnone : codeShare n none = 0 := rfl
  rw [lastPath_node]
  obtain h | h := h <;> rw [h, hnone]
  · rw [Option.map_none, Option.or_none, codeShare_succ_map_cons, Nat.zero_add]
  · rw [Option.map_none, Option.none_or, codeShare_succ_map_cons, Nat.add_zero]

/-- Kraft's equation (R184), scaled: the shares of the symbols are all there is. -/
theorem sum_codeShare {t : Tree} (hd : DistinctLeaves t) {n : Nat} (hn : treeDepth t ≤ n) :
    ∑ x, codeShare n (lastPath x t) = 2 ^ n := by
  induction t generalizing n with
  | leaf y =>
    have hshare (x : Symbol) : codeShare n (lastPath x (.leaf y)) = if y = x then 2 ^ n else 0 := by
      by_cases hx : y = x <;> simp [lastPath, codeShare, hx]
    simp only [hshare, Finset.sum_ite_eq, Finset.mem_univ, if_true]
  | node l r ihl ihr =>
    obtain ⟨hl, hr, hdisj⟩ := List.nodup_append'.mp hd
    obtain ⟨n, rfl⟩ := Nat.exists_eq_add_one_of_ne_zero (Nat.ne_zero_of_lt (Nat.lt_of_succ_le hn))
    obtain ⟨hnl, hnr⟩ := max_le_iff.mp (Nat.le_of_succ_le_succ hn)
    have hsplit (x : Symbol) : lastPath x l = none ∨ lastPath x r = none := by
      rw [lastPath_eq_none_iff, lastPath_eq_none_iff]
      exact not_and_or.mp fun ⟨hxl, hxr⟩ => hdisj hxl hxr
    calc ∑ x, codeShare (n + 1) (lastPath x (.node l r))
        = ∑ x, (codeShare n (lastPath x l) + codeShare n (lastPath x r)) :=
          Finset.sum_congr rfl fun x _ => codeShare_lastPath_node n (hsplit x)
      _ = 2 ^ n + 2 ^ n := by rw [Finset.sum_add_distrib, ihl hl hnl, ihr hr hnr]
      _ = 2 ^ (n + 1) := by ring

/-- A tree that TREE may hold has at most 257 leaves, and so no path longer than `MAX_CODE_LEN` (R39, R42). -/
theorem treeDepth_le_of_legalTree {t : Tree} (h : legalTree t = true) : treeDepth t ≤ 256 := by
  obtain ⟨hsize, -⟩ := legalTree_iff.mp h
  have hnodes := treeSize_add_one t
  have hdepth := treeDepth_add_one_le t
  omega

/-- Settles O33: the lengths are bounded by the depth, and the sum over the symbols is that of their shares. -/
theorem codeLengthsFillTheTree : Obligations.CodeLengthsFillTheTree := by
  intro t ht
  have hdepth := treeDepth_le_of_legalTree ht
  simp only [getElem_codesOf]
  refine ⟨fun x c hc => ?_, fun hd => ?_⟩
  · have hsub := subtree_of_lastPath hc
    refine ⟨hsub, (length_le_treeDepth hsub).trans hdepth, fun hnil => ?_⟩
    subst hnil
    obtain rfl : t = .leaf x := by simpa [subtree] using hsub
    obtain ⟨-, hroot⟩ := legalTree_iff.mp ht
    exact congrArg Tree.leaf (beq_iff_eq.mp hroot)
  · exact (Fin.sum_univ_def fun x => codeShare 256 (lastPath x t)).symm.trans (sum_codeShare hd hdepth)

end Sys2Proof.Machine
end

section
/-! PROOF. The code table commands (R180, R181): CODE_DERIVE's table, and the window CODE_READ shows of a code. -/

namespace Sys2Proof.Machine

/-! ### CODE_DERIVE -/

/-- Settles O31: the table is `codes(TREE)`, whose entries are the last paths. -/
theorem codeDeriveRecordsPaths : Obligations.CodeDeriveRecordsPaths := by
  refine ⟨by decide, fun s => ⟨fun t ht => ?_, fun ht => ?_⟩⟩
  · have hbody : codeDeriveBody s = .done () { s with code := codesOf t, codesValid := true } := by
      simp [codeDeriveBody, requireTree, ht]
    exact ⟨_, congrArg endCommand hbody, rfl, getElem_codesOf t, rfl, rfl⟩
  · have hbody : codeDeriveBody s = .raised .noTree s := by simp [codeDeriveBody, requireTree, ht]
    exact congrArg endCommand hbody

/-! ### The window of a code -/

/-- Bit `m` of a numeral is the bit `m` places before the last one (R9). -/
theorem getElem?_eq_testBit_num {p : Bits} {m : Nat} (hm : m < p.length) :
    p[p.length - 1 - m]? = some ((num p).testBit m) := by
  have hbit := getElem?_bitsOf (BitVec.ofNat p.length (num p)) (k := p.length - 1 - m) (by omega)
  rw [bitsOf_ofNat_num rfl] at hbit
  rw [hbit, BitVec.getMsbD_eq_getLsbD, BitVec.getLsbD_ofNat, show p.length - 1 - (p.length - 1 - m) = m by omega]
  simp [hm, show p.length - 1 - m < p.length by omega]

theorem toNat_codeWindow (p : Bits) (k : BitVec 3) :
    (codeWindow p k).toNat = num p / 2 ^ (32 * k.toNat) % 2 ^ 32 := by
  rw [codeWindow, BitVec.toNat_ofNat, Nat.shiftRight_eq_div_pow]

/-- Bit `j` of window `k` is bit `32k + j` of the numeral (R90). -/
theorem getLsbD_codeWindow (p : Bits) (k : BitVec 3) {j : Nat} (hj : j < 32) :
    (codeWindow p k).getLsbD j = (num p).testBit (32 * k.toNat + j) := by
  simp only [codeWindow, BitVec.getLsbD_ofNat, hj, decide_true, Bool.true_and, Nat.testBit_shiftRight]

/-- A window beyond the code is 0 (R181). -/
theorem codeWindow_eq_zero {p : Bits} {k : BitVec 3} (h : p.length ≤ 32 * k.toNat) : codeWindow p k = 0 := by
  have hlt : num p < 2 ^ (32 * k.toNat) := (num_lt p).trans_le (Nat.pow_le_pow_right (by decide) h)
  rw [codeWindow, Nat.shiftRight_eq_div_pow, Nat.div_eq_of_lt hlt]
  rfl

/-- RESULT of a code: VALID and the length (R33, R181). -/
theorem codeResult_eq_or {p : Bits} (h : p.length ≤ 256) :
    codeResult p = 0x80000000 ||| BitVec.ofNat 32 p.length := by
  have hfield : BitVec.ofNat 32 p.length = 0#23 ++ BitVec.ofNat 9 p.length := by
    apply BitVec.eq_of_toNat_eq
    simp only [BitVec.toNat_append, BitVec.toNat_ofNat, Nat.zero_mod, Nat.zero_shiftLeft, Nat.zero_or]
    omega
  have hvalid : (0x80000000 : Word) = ((1 : BitVec 1) ++ (0 : BitVec 22)) ++ (0 : BitVec 9) := by decide
  rw [codeResult, hfield, hvalid, BitVec.or_append]
  simp

/-! ### CODE_READ -/

/-- CODE_READ's word for a symbol and a window (R93, R181). -/
theorem decodeWord_codeRead (x : Symbol) (k : BitVec 3) :
    decodeWord (0x00000031#32 ||| ((symbolField x).setWidth 32 <<< 8) ||| (k.setWidth 32 <<< 17)) =
      .command (.codeRead (symbolField x) k) := by
  have hw : encode (.codeRead (symbolField x) k) =
      0x00000031#32 ||| ((symbolField x).setWidth 32 <<< 8) ||| (k.setWidth 32 <<< 17) := append_eq_or_shiftLeft _ _ _
  exact hw ▸ decodeWord_encode (symbolInRange_symbolField x)

theorem codeReadBody_of_not_codesValid {s : State} (hv : s.codesValid = false) (x : Symbol) (k : BitVec 3) :
    codeReadBody (symbolField x) k s = .raised .noCodes s := by
  simp [codeReadBody, requireCodes, hv]

theorem codeReadBody_of_codesValid {s : State} {x : Symbol} {c : Option Bits} (hv : s.codesValid = true)
    (hc : s.codeFor x = c) (k : BitVec 3) : codeReadBody (symbolField x) k s = .done () (showCode c k s) := by
  simp [codeReadBody, requireCodes, hv, hc]

theorem codeReadBody_of_gt {v : BitVec 9} (hv : 256 < v.toNat) (k : BitVec 3) (s : State) :
    codeReadBody v k s = .raised .illegalCommand s := by
  rw [codeReadBody, requireSymbol_of_gt hv, Run.andThen_raised]

/-- Settles O34: what CODE_READ shows rests on CODES_VALID and on the symbol's entry of CODE. -/
theorem codeReadShowsTheCode : Obligations.CodeReadShowsTheCode := by
  refine ⟨fun x k s => ⟨decodeWord_codeRead x k,
    fun hv => congrArg endCommand (codeReadBody_of_not_codesValid hv x k),
    fun hv hc => congrArg endCommand (codeReadBody_of_codesValid hv hc k), fun p hv hc hp => ?_⟩,
    fun v k s hv => congrArg endCommand (codeReadBody_of_gt hv k s)⟩
  exact ⟨_, congrArg endCommand (codeReadBody_of_codesValid hv hc k), codeResult_eq_or hp, toNat_codeWindow p k,
    fun j hj hjp => (getElem?_eq_testBit_num hjp).trans (congrArg some (getLsbD_codeWindow p k hj).symm),
    codeWindow_eq_zero, rfl⟩

end Sys2Proof.Machine
end

section
/-! PROOF. The serialization of a tree (R202): its length, its fields (R201), and that a tree is read back from it in
one way only (R206). -/

namespace Sys2Proof.Machine

/-! ### The fields of a header -/

/-- A header's fields one after another are the serialization (R201, R202). -/
@[simp] theorem flatten_headerFields (t : Tree) : (headerFields t).flatten = serialize t := by
  induction t with
  | leaf x => simp [headerFields, serialize, symbolField]
  | node l r ihl ihr => simp [headerFields, serialize, ihl, ihr]

theorem length_headerFields (t : Tree) : (headerFields t).length = treeInternal t + 2 * (treeLeaves t).length := by
  induction t with
  | leaf x => rfl
  | node l r ihl ihr =>
    simp only [headerFields, treeInternal, treeLeaves, List.length_cons, List.length_append]
    omega

/-- A node begins with one flag (R201). -/
theorem flagCount_headerFields (t : Tree) : flagCount (headerFields t) = treeSize t := by
  induction t with
  | leaf x => simp [headerFields, flagCount, treeSize]
  | node l r ihl ihr =>
    simp only [flagCount] at ihl ihr
    simp [headerFields, flagCount, treeSize, ihl, ihr]

/-- The number of bits of a header (R99). -/
theorem length_serialize (t : Tree) : (serialize t).length = treeInternal t + 10 * (treeLeaves t).length := by
  induction t with
  | leaf x => simp [serialize, treeInternal, treeLeaves]
  | node l r ihl ihr =>
    simp only [serialize, treeInternal, treeLeaves, List.length_cons, List.length_append]
    omega

/-! ### Unique readability -/

theorem bitsOf_injective {n : Nat} {v w : BitVec n} (h : bitsOf v = bitsOf w) : v = w :=
  BitVec.eq_of_toNat_eq (by rw [← num_bitsOf v, ← num_bitsOf w, h])

theorem symbolField_injective {x y : Symbol} (h : symbolField x = symbolField y) : x = y :=
  Option.some_injective _ (by rw [← symbolOf_symbolField x, ← symbolOf_symbolField y, h])

/-- Settles O39, by the flag of the root: two nodes agree on their left subtrees and then on their right ones, two
leaves on the 9 bits of their symbols. -/
theorem serializationIsAPrefixCode : Obligations.SerializationIsAPrefixCode := by
  intro t
  induction t with
  | leaf x =>
    intro u a b h
    cases u with
    | leaf y =>
      obtain ⟨hbits, hab⟩ := List.append_inj (List.tail_eq_of_cons_eq h) (by simp)
      exact ⟨congrArg Tree.leaf (symbolField_injective (bitsOf_injective hbits)), hab⟩
    | node l r => cases List.head_eq_of_cons_eq h
  | node l r ihl ihr =>
    intro u a b h
    cases u with
    | leaf y => cases List.head_eq_of_cons_eq h
    | node l' r' =>
      have htail : serialize l ++ (serialize r ++ a) = serialize l' ++ (serialize r' ++ b) := by
        simpa [serialize] using h
      obtain ⟨rfl, hright⟩ := ihl _ _ _ htail
      obtain ⟨rfl, hab⟩ := ihr _ _ _ hright
      exact ⟨rfl, hab⟩

end Sys2Proof.Machine
end

section
/-! PROOF. The header's port operations (R61, R62): which draws let a number of them pass, what one read of the bits
ahead does, and with these the format tag (R200, R204) and the header writer (R201). -/

namespace Sys2Proof.Machine

/-! ### Draws that let port operations pass -/

/-- The next `n` port operations do not fail (R82). -/
def PortsPass (n : Nat) (draws : List Bool) : Prop := ∀ k, k < n → draws[k]? ≠ some true

theorem NoPortFailure.portsPass {s : State} (h : NoPortFailure s) (n : Nat) : PortsPass n s.portDraws :=
  fun k _ => h.getElem?_ne k

theorem NoPortFailure.drop {s t : State} (h : NoPortFailure s) {n : Nat} (ht : t.portDraws = s.portDraws.drop n) :
    NoPortFailure t := fun b hb => h b (List.mem_of_mem_drop (ht ▸ hb))

section PortsPass

variable {m n : Nat} {draws : List Bool}

theorem PortsPass.mono (h : PortsPass n draws) (hmn : m ≤ n) : PortsPass m draws := fun k hk => h k (hk.trans_le hmn)

theorem PortsPass.drop (h : PortsPass (m + n) draws) : PortsPass n (draws.drop m) := fun k hk => by
  rw [List.getElem?_drop]
  exact h _ (by omega)

theorem PortsPass.head (h : PortsPass (n + 1) draws) : draws.head? ≠ some true := by
  rw [List.head?_eq_getElem?]
  exact h 0 n.succ_pos

theorem PortsPass.tail (h : PortsPass (n + 1) draws) : PortsPass n draws.tail := fun k hk => by
  rw [List.getElem?_tail]
  exact h _ (by omega)

end PortsPass

/-! ### One read of the bits ahead -/

/-- The input from IN_POS on. -/
abbrev bitsAhead (s : State) : Bits := s.inBits.drop s.inPos

/-- The state after a read of `n` bits (R61). -/
def afterRead (n : Nat) (s : State) : State := { s with portDraws := s.portDraws.tail, inPos := s.inPos + n }

/-- A cursor past some bits has the others ahead. -/
theorem drop_inPos_add {s : State} {c rest : Bits} {n : Nat} (h : bitsAhead s = c ++ rest) (hn : c.length = n) :
    s.inBits.drop (s.inPos + n) = rest := by
  rw [← List.drop_drop]
  exact (congrArg (List.drop n) h).trans (List.drop_left' hn)

/-- Enough bits begin with those of a value. -/
theorem exists_eq_bitsOf_append {n : Nat} {c : Bits} (h : n ≤ c.length) : ∃ v : BitVec n, c = bitsOf v ++ c.drop n :=
  ⟨BitVec.ofNat n (num (c.take n)), by
    rw [bitsOf_ofNat_num (List.length_take_of_le h), List.take_append_drop]⟩

section Reads

variable {n : Nat} {e : ErrorKind} {s : State}

theorem readOrRaise_failing (h : s.portDraws.head? = some true) :
    readOrRaise n e s = .raised .ioError { s with portDraws := s.portDraws.tail } := by
  simp [readOrRaise, readOrBreak, portRead_failing n h]

theorem readOrRaise_short (h : s.portDraws.head? ≠ some true) (hn : s.inBits.length < s.inPos + n) :
    readOrRaise n e s = .raised e { s with portDraws := s.portDraws.tail } := by
  simp [readOrRaise, readOrBreak, portRead_short h hn]

/-- A read gives the value the bits ahead begin with, and passes it. -/
theorem readOrRaise_data {v : BitVec n} {rest : Bits} (h : s.portDraws.head? ≠ some true)
    (hb : bitsAhead s = bitsOf v ++ rest) (hn : 0 < n) : readOrRaise n e s = .done v (afterRead n s) := by
  have hlen : s.inPos + n ≤ s.inBits.length := by
    have := congrArg List.length hb
    simp only [List.length_drop, List.length_append, length_bitsOf] at this
    omega
  have hv : BitVec.ofNat n (num ((bitsAhead s).take n)) = v := by
    rw [hb, List.take_left' (length_bitsOf v), num_bitsOf, BitVec.ofNat_toNat, BitVec.setWidth_eq]
  simp [readOrRaise, readOrBreak, portRead_data h hlen, hv, afterRead]

/-- What a read gave was ahead of it. -/
theorem bitsAhead_of_readOrRaise {v : BitVec n} {u : State} (h : readOrRaise n e s = .done v u) :
    u = afterRead n s ∧ bitsAhead s = bitsOf v ++ bitsAhead u := by
  obtain ⟨h', -⟩ | ⟨h', -⟩ | ⟨h', -, hn⟩ := readOrRaise_cases n e s <;> rw [h'] at h <;> cases h
  refine ⟨rfl, ?_⟩
  rw [bitsOf_ofNat_num (by simp; omega), bitsAhead, bitsAhead, ← List.drop_drop, List.take_append_drop]

end Reads

/-! ### The format tag -/

theorem magicWriteBody_passing {s : State} (h : s.portDraws.head? ≠ some true) :
    magicWriteBody s = .done () { s with portDraws := s.portDraws.tail, outBits := s.outBits ++ bitsOf s.magic } :=
  writeField_passing s.magic h

theorem magicReadBody_of_tag {s : State} {rest : Bits} (h : s.portDraws.head? ≠ some true)
    (hb : bitsAhead s = bitsOf s.magic ++ rest) : magicReadBody s = .done () (afterRead 32 s) := by
  rw [magicReadBody, readOrRaise_data h hb (by decide), Run.andThen_done]
  exact if_pos rfl

theorem magicReadBody_of_ne_tag {s : State} {v : Word} {rest : Bits} (h : s.portDraws.head? ≠ some true)
    (hb : bitsAhead s = bitsOf v ++ rest) (hv : v ≠ s.magic) :
    magicReadBody s = .raised .unrecognizedFormat (afterRead 32 s) := by
  rw [magicReadBody, readOrRaise_data h hb (by decide), Run.andThen_done]
  exact if_neg hv

/-- Settles O40: the one port operation of each command fails or passes, and a read of 32 bits finds too few, the tag,
or another value. -/
theorem formatTagCommands : Obligations.FormatTagCommands := by
  refine ⟨by decide, by decide, fun s => ⟨fun hf => ⟨?_, ?_⟩, fun hp =>
    ⟨?_, fun hn => ?_, fun hn hne => ?_, fun ht => ?_⟩⟩⟩
  · exact congrArg endCommand (writeField_failing s.magic hf)
  · have hbody : magicReadBody s = .raised .ioError { s with portDraws := s.portDraws.tail } := by
      rw [magicReadBody, readOrRaise_failing hf, Run.andThen_raised]
    exact congrArg endCommand hbody
  · exact congrArg endCommand (magicWriteBody_passing hp)
  · have hbody : magicReadBody s = .raised .unrecognizedFormat { s with portDraws := s.portDraws.tail } := by
      rw [magicReadBody, readOrRaise_short hp hn, Run.andThen_raised]
    exact congrArg endCommand hbody
  · obtain ⟨v, hv⟩ := exists_eq_bitsOf_append (n := 32) (c := bitsAhead s) (by simp; omega)
    have hvm : v ≠ s.magic := by
      rintro rfl
      exact hne ((congrArg (List.take 32) hv).trans (List.take_left' (length_bitsOf _)))
    exact congrArg endCommand (magicReadBody_of_ne_tag hp hv hvm)
  · have hb : bitsAhead s = bitsOf s.magic ++ (bitsAhead s).drop 32 := by
      rw [← ht, List.take_append_drop]
    exact congrArg endCommand (magicReadBody_of_tag hp hb)

/-! ### HDR_WRITE -/

/-- Writing some fields, one port operation each. -/
def writeFields : List Bits → State → Run Unit
  | [], s => .done () s
  | f :: fs, s => (writeField (BitVec.ofNat f.length (num f)) s).andThen fun _ t => writeFields fs t

theorem writeField_bitsOf {n : Nat} (v : BitVec n) (s : State) :
    writeField (BitVec.ofNat (bitsOf v).length (num (bitsOf v))) s = writeField v s := by
  simp only [writeField, bitsOf_ofNat_num]

theorem writeFields_append (fs gs : List Bits) (s : State) :
    writeFields (fs ++ gs) s = (writeFields fs s).andThen fun _ t => writeFields gs t := by
  induction fs generalizing s with
  | nil => rfl
  | cons f fs ih => simp only [List.cons_append, writeFields, Run.andThen_assoc, ih]

/-- The writer writes the fields of the header in order (R201). -/
theorem writeTree_eq_writeFields (t : Tree) (s : State) : writeTree t s = writeFields (headerFields t) s := by
  induction t generalizing s with
  | leaf x =>
    have hend (r : Run Unit) : (r.andThen fun _ t => .done () t) = r := by cases r <;> rfl
    simp only [headerFields, writeFields, writeField_bitsOf, writeTree, hend]
    rfl
  | node l r ihl ihr =>
    simp only [headerFields, writeFields, writeFields_append, writeTree, ihl, ihr]
    rfl

/-- The state after some fields were written (R62). -/
def wrote (fs : List Bits) (s : State) : State :=
  { s with portDraws := s.portDraws.drop fs.length, outBits := s.outBits ++ fs.flatten }

theorem wrote_cons (f : Bits) (fs : List Bits) (s : State) : wrote (f :: fs) s = wrote fs (wrote [f] s) := by
  simp [wrote]

theorem writeFields_cons_passing (f : Bits) (fs : List Bits) {s : State} (h : s.portDraws.head? ≠ some true) :
    writeFields (f :: fs) s = writeFields fs (wrote [f] s) := by
  rw [writeFields, writeField_passing _ h, bitsOf_ofNat_num rfl, Run.andThen_done]
  simp [wrote]

theorem writeFields_passing {fs : List Bits} {s : State} (h : PortsPass fs.length s.portDraws) :
    writeFields fs s = .done () (wrote fs s) := by
  induction fs generalizing s with
  | nil => simp [writeFields, wrote]
  | cons f fs ih =>
    rw [writeFields_cons_passing f fs h.head, wrote_cons f fs]
    exact ih (s := wrote [f] s) (by simpa [wrote] using h.tail)

/-- Where the port fails at field `j`, exactly the fields before it are written (R201). -/
theorem writeFields_failing {fs : List Bits} {j : Nat} {s : State} (hj : j < fs.length)
    (hp : PortsPass j s.portDraws) (hf : s.portDraws[j]? = some true) :
    writeFields fs s = .raised .ioError { wrote (fs.take j) s with portDraws := s.portDraws.drop (j + 1) } := by
  induction fs generalizing j s with
  | nil => cases hj
  | cons f fs ih =>
    cases j with
    | zero =>
      rw [writeFields, writeField_failing _ (List.head?_eq_getElem?.trans hf)]
      simp [wrote]
    | succ j =>
      have htail : (wrote [f] s).portDraws = s.portDraws.tail := List.drop_one
      rw [writeFields_cons_passing f fs hp.head, ih (Nat.lt_of_succ_lt_succ hj) (htail ▸ hp.tail)
        (by rw [htail, List.getElem?_tail, hf])]
      simp [wrote]

/-- HDR_WRITE writes the fields of the tree TREE holds (R201). -/
theorem hdrWriteBody_eq {s : State} {t : Tree} (h : s.tree = some t) :
    hdrWriteBody s = writeFields (headerFields t) s := by
  simp [hdrWriteBody, requireTree, h, writeTree_eq_writeFields]

/-- Settles O35: the writer writes the fields of the header one by one. -/
theorem headerWriteSerializes : Obligations.HeaderWriteSerializes := by
  refine ⟨by decide, fun _ _ => rfl, fun _ => rfl, fun t => ⟨length_serialize t, ?_, fun hl => ?_,
    flatten_headerFields t, length_headerFields t⟩, fun s => ⟨fun ht => ?_, fun t ht =>
    ⟨fun hp => ?_, fun j hj hp hf => ?_⟩⟩⟩
  · have hnodes := treeInternal_add_one t
    rw [length_serialize]
    omega
  · have hnodes := treeInternal_add_one t
    have hsize := treeSize_add_one t
    obtain ⟨hcap, -⟩ := legalTree_iff.mp hl
    rw [length_serialize]
    omega
  · have hbody : hdrWriteBody s = .raised .noTree s := by simp [hdrWriteBody, requireTree, ht]
    exact congrArg endCommand hbody
  · have hbody := (hdrWriteBody_eq ht).trans (writeFields_passing hp)
    refine (congrArg endCommand hbody).trans ?_
    simp [wrote, State.finish]
  · exact congrArg endCommand ((hdrWriteBody_eq ht).trans (writeFields_failing hj hp hf))

end Sys2Proof.Machine
end

section
/-! PROOF. The header reader (R205): one node of it, what it changes and its errors, and that the tree it ends with is
what was ahead. -/

namespace Sys2Proof.Machine

/-! ### One node -/

/-- The reader past the flag of an internal node (R205). -/
def readPair (fuel : Nat) (s : State) : Run Tree :=
  (readNode fuel (pushPending (countNode s))).andThen fun l u =>
    (readNode fuel (setPendingLeft l u)).andThen fun r v => .done (.node l r) (popPending v)

/-- The reader past the flag of a leaf (R205). -/
def readLeaf (s : State) : Run Tree :=
  (readOrRaise 9 .malformedHeader s).andThen fun v u =>
    match symbolOf v with
    | none => .raised .malformedHeader u
    | some x => .done (.leaf x) (countNode u)

/-- The reader looks at the count, and then at the flag (R205). -/
theorem readNode_succ (fuel : Nat) (s : State) :
    readNode (fuel + 1) s =
      if s.hdrCount = 513 then .raised .malformedHeader s
      else (readOrRaise 1 .malformedHeader s).andThen fun f t => if f = 0 then readPair fuel t else readLeaf t := rfl

theorem bitsOf_flag (f : BitVec 1) : bitsOf f = if f = 0 then [false] else [true] := by
  revert f
  decide

theorem symbolOf_eq_some {v : BitVec 9} {x : Symbol} (h : symbolOf v = some x) : v = symbolField x := by
  by_cases hv : v.toNat < 257
  · obtain rfl := Option.some_injective _ ((dif_pos hv).symm.trans h)
    exact BitVec.eq_of_toNat_eq (Nat.mod_eq_of_lt v.isLt).symm
  · cases (dif_neg hv).symm.trans h

section Node

variable {s : State} {rest : Bits}

theorem readLeaf_data {x : Symbol} (hp : s.portDraws.head? ≠ some true)
    (hb : bitsAhead s = bitsOf (symbolField x) ++ rest) :
    readLeaf s = .done (.leaf x) (countNode (afterRead 9 s)) := by
  simp [readLeaf, readOrRaise_data hp hb (by decide)]

/-- A symbol field of 257..511 has been read when it stops the reader (R205). -/
theorem readLeaf_badSymbol {v : BitVec 9} (hp : s.portDraws.head? ≠ some true) (hb : bitsAhead s = bitsOf v ++ rest)
    (hv : 256 < v.toNat) : readLeaf s = .raised .malformedHeader (afterRead 9 s) := by
  simp [readLeaf, readOrRaise_data hp hb (by decide), symbolOf, show ¬ v.toNat < 257 by omega]

theorem readLeaf_eq_done {t : Tree} {u : State} (h : readLeaf s = .done t u) :
    ∃ x, t = .leaf x ∧ u = countNode (afterRead 9 s) ∧ bitsAhead s = bitsOf (symbolField x) ++ bitsAhead u := by
  obtain ⟨v, w, hw, h⟩ := Run.andThen_eq_done.mp h
  obtain ⟨rfl, hb⟩ := bitsAhead_of_readOrRaise hw
  cases hx : symbolOf v with
  | none =>
    rw [hx] at h
    cases h
  | some x =>
    rw [hx] at h
    cases h
    exact ⟨x, rfl, rfl, symbolOf_eq_some hx ▸ hb⟩

/-- A flag that is there and is counted below the capacity leads on, with fuel for every node there is room for. -/
theorem readNode_flag {b : Bool} {fuel : Nat} (hfuel : 514 ≤ fuel + s.hdrCount.toNat) (hn : s.hdrCount.toNat < 513)
    (hp : s.portDraws.head? ≠ some true) (hb : bitsAhead s = b :: rest) :
    ∃ k, 514 ≤ k + (s.hdrCount + 1).toNat ∧
      readNode fuel s = if b then readLeaf (afterRead 1 s) else readPair k (afterRead 1 s) := by
  have hne : s.hdrCount ≠ 513 := fun he => by simp [he] at hn
  obtain ⟨hinc, -⟩ := toNat_succ_of_ne_nodeCap hn.le hne
  obtain ⟨k, rfl⟩ : ∃ k, fuel = k + 1 := ⟨fuel - 1, by omega⟩
  refine ⟨k, by omega, ?_⟩
  have hflag : bitsAhead s = bitsOf (BitVec.ofBool b) ++ rest := by rw [bitsOf_ofBool, hb, List.singleton_append]
  rw [readNode_succ, if_neg hne, readOrRaise_data hp hflag (by decide), Run.andThen_done]
  cases b <;> rfl

end Node

/-! ### What the reader changes, and its errors -/

/-- What the header reader changes: its own stack and count, IN_POS, and the draws its port operations take. -/
inductive ReadsFrom (s : State) : State → Prop where
  | intro (st : List (Option Tree)) (n : BitVec 10) (p : Nat) (d : List Bool) (hd : d <:+ s.portDraws) :
      ReadsFrom s { s with hdrStack := st, hdrCount := n, inPos := p, portDraws := d }

/-- How the header reader ends: MALFORMED_HEADER, or IO_ERROR where the environment draws one, are its errors. -/
def ReaderEnds {α : Type} (s : State) : Run α → Prop
  | .done _ t => ReadsFrom s t
  | .raised e t => ReadsFrom s t ∧ (e = .malformedHeader ∨ e = .ioError ∧ true ∈ s.portDraws)
  | .stuck _ => False

theorem ReadsFrom.refl (s : State) : ReadsFrom s s := .intro _ _ _ _ List.suffix_rfl

theorem ReadsFrom.tail (s : State) (p : Nat) : ReadsFrom s { s with portDraws := s.portDraws.tail, inPos := p } :=
  .intro _ _ _ _ (List.tail_suffix _)

section ReaderEnds

variable {α β : Type} {s t u : State} {r : Run α}

theorem ReadsFrom.trans (hst : ReadsFrom s t) (htu : ReadsFrom t u) : ReadsFrom s u := by
  obtain ⟨_, _, _, _, hd⟩ := hst
  obtain ⟨_, _, _, _, hd'⟩ := htu
  exact .intro _ _ _ _ (hd'.trans hd)

theorem ReadsFrom.draws_suffix (h : ReadsFrom s t) : t.portDraws <:+ s.portDraws := by
  obtain ⟨_, _, _, _, hd⟩ := h
  exact hd

theorem ReaderEnds.after (h : ReadsFrom s t) (hr : ReaderEnds t r) : ReaderEnds s r := by
  cases r with
  | done a u => exact h.trans hr
  | raised e u => exact ⟨h.trans hr.1, hr.2.imp_right fun ⟨he, hd⟩ => ⟨he, h.draws_suffix.mem hd⟩⟩
  | stuck x => exact hr

theorem ReaderEnds.andThen {f : α → State → Run β} (hr : ReaderEnds s r) (hf : ∀ a t, ReaderEnds t (f a t)) :
    ReaderEnds s (r.andThen f) := by
  cases r with
  | done a t => exact (hf a t).after hr
  | raised e t => exact hr
  | stuck x => exact hr

end ReaderEnds

theorem readOrRaise_readerEnds (n : Nat) (s : State) : ReaderEnds s (readOrRaise n .malformedHeader s) := by
  obtain ⟨h, hd⟩ | ⟨h, -⟩ | ⟨h, -⟩ := readOrRaise_cases n .malformedHeader s <;> rw [h]
  · exact ⟨.tail s _, .inr ⟨rfl, List.mem_of_mem_head? hd⟩⟩
  · exact ⟨.tail s _, .inl rfl⟩
  · exact .tail s _

theorem readLeaf_readerEnds (s : State) : ReaderEnds s (readLeaf s) :=
  (readOrRaise_readerEnds 9 s).andThen fun v t => by
    cases symbolOf v with
    | none => exact ⟨.refl t, .inl rfl⟩
    | some x => exact .intro _ _ _ _ List.suffix_rfl

theorem readNode_readerEnds (fuel : Nat) (s : State) : ReaderEnds s (readNode fuel s) := by
  induction fuel generalizing s with
  | zero => exact ⟨.refl s, .inl rfl⟩
  | succ fuel ih =>
    rw [readNode_succ]
    split
    · exact ⟨.refl s, .inl rfl⟩
    refine (readOrRaise_readerEnds 1 s).andThen fun f t => ?_
    split
    · refine ((ih _).after (.intro _ _ _ _ List.suffix_rfl)).andThen fun l u => ?_
      exact ((ih _).after (.intro _ _ _ _ List.suffix_rfl)).andThen fun r v => .intro _ _ _ _ List.suffix_rfl
    · exact readLeaf_readerEnds t

/-! ### A tree that has been read is what was ahead -/

theorem readNode_sound {fuel : Nat} {s u : State} {t : Tree} (h : readNode fuel s = .done t u) :
    bitsAhead s = serialize t ++ bitsAhead u ∧ u.inPos = s.inPos + (serialize t).length := by
  induction fuel generalizing s u t with
  | zero => cases h
  | succ fuel ih =>
    rw [readNode_succ] at h
    split at h
    · cases h
    obtain ⟨f, a, ha, h⟩ := Run.andThen_eq_done.mp h
    obtain ⟨rfl, hflag⟩ := bitsAhead_of_readOrRaise ha
    rw [bitsOf_flag] at hflag
    split at h
    next hf =>
      obtain ⟨l, b, hl, h⟩ := Run.andThen_eq_done.mp h
      obtain ⟨r, c, hr, h⟩ := Run.andThen_eq_done.mp h
      cases h
      obtain ⟨(hlb : bitsAhead (afterRead 1 s) = serialize l ++ bitsAhead b),
        (hlp : b.inPos = s.inPos + 1 + (serialize l).length)⟩ := ih hl
      obtain ⟨(hrb : bitsAhead b = serialize r ++ bitsAhead c),
        (hrp : c.inPos = b.inPos + (serialize r).length)⟩ := ih hr
      refine ⟨?_, ?_⟩
      · rw [hflag, if_pos hf, hlb, hrb, ← List.append_assoc (serialize l)]
        rfl
      · simp only [popPending_inPos, serialize, List.length_cons, List.length_append]
        omega
    next hf =>
      obtain ⟨x, rfl, rfl, hx⟩ := readLeaf_eq_done h
      refine ⟨?_, ?_⟩
      · rw [hflag, if_neg hf, hx]
        rfl
      · simp [afterRead, serialize, Nat.add_assoc]

end Sys2Proof.Machine
end

section
/-! PROOF. The header reader, from the bits ahead (R205): it reads the tree whose header they begin with, and otherwise
stops at the first field it cannot take. -/

namespace Sys2Proof.Machine

/-! ### A tree that is ahead is read -/

/-- The state after the header of `t` has been read (R205). -/
def readPast (t : Tree) (s : State) : State :=
  { s with
    inPos := s.inPos + (serialize t).length
    portDraws := s.portDraws.drop (headerFields t).length
    hdrCount := s.hdrCount + BitVec.ofNat 10 (treeSize t) }

theorem readPast_leaf (x : Symbol) (s : State) :
    readPast (.leaf x) s = countNode (afterRead 9 (afterRead 1 s)) := by
  have hdraws : s.portDraws.drop 2 = s.portDraws.tail.tail := by simp only [← List.drop_one, List.drop_drop]
  simp [readPast, countNode, afterRead, serialize, headerFields, treeSize, hdraws]

theorem toNat_hdrCount_readPast {t : Tree} {s : State} (h : s.hdrCount.toNat + treeSize t ≤ 513) :
    (readPast t s).hdrCount.toNat = s.hdrCount.toNat + treeSize t := by
  simp only [readPast, BitVec.toNat_add, BitVec.toNat_ofNat]
  omega

theorem bitsAhead_readPast {t : Tree} {s : State} {rest : Bits} (h : bitsAhead s = serialize t ++ rest) :
    bitsAhead (readPast t s) = rest := drop_inPos_add h rfl

/-! ### Between the subtrees of a node -/

/-- The state in which an internal node's left subtree is read (R205). -/
def beginLeft (s : State) : State := pushPending (countNode (afterRead 1 s))

/-- The state in which its right subtree is read, once the left one, `l`, has been (R205). -/
def beginRight (l : Tree) (s : State) : State := setPendingLeft l (readPast l (beginLeft s))

/-- The node's own stack entry is gone once both subtrees have been read (R43). -/
theorem readPast_node (l r : Tree) (s : State) :
    readPast (.node l r) s = popPending (readPast r (beginRight l s)) := by
  have hpos : s.inPos + (serialize (.node l r)).length =
      s.inPos + 1 + (serialize l).length + (serialize r).length := by
    simp only [serialize, List.length_cons, List.length_append]
    omega
  have hdraws : s.portDraws.drop (headerFields (.node l r)).length =
      (s.portDraws.tail.drop (headerFields l).length).drop (headerFields r).length := by
    rw [List.drop_drop, List.drop_tail, headerFields, List.length_cons, List.length_append]
  have hcount : s.hdrCount + BitVec.ofNat 10 (treeSize (.node l r)) =
      s.hdrCount + 1 + BitVec.ofNat 10 (treeSize l) + BitVec.ofNat 10 (treeSize r) := by
    simp only [treeSize, BitVec.ofNat_add]
    ac_rfl
  simp only [readPast, hpos, hdraws, hcount, beginRight, beginLeft, popPending, setPendingLeft, pushPending, countNode,
    afterRead, List.drop_succ_cons, List.drop_zero]

section Subtrees

variable {s : State} {l r : Tree}

theorem toNat_hdrCount_beginLeft (h : s.hdrCount.toNat < 513) :
    (beginLeft s).hdrCount.toNat = s.hdrCount.toNat + 1 :=
  (toNat_succ_of_ne_nodeCap h.le fun he => by simp [he] at h).1

theorem toNat_hdrCount_beginRight (h : s.hdrCount.toNat + 1 + treeSize l ≤ 513) :
    (beginRight l s).hdrCount.toNat = s.hdrCount.toNat + 1 + treeSize l := by
  have hleft := toNat_hdrCount_beginLeft (s := s) (by omega)
  exact (toNat_hdrCount_readPast (by omega)).trans (by omega)

theorem bitsAhead_beginLeft {c : Bits} (h : bitsAhead s = false :: c) : bitsAhead (beginLeft s) = c :=
  drop_inPos_add (c := [false]) h rfl

theorem bitsAhead_beginRight {c : Bits} (h : bitsAhead s = false :: (serialize l ++ c)) :
    bitsAhead (beginRight l s) = c :=
  bitsAhead_readPast (bitsAhead_beginLeft h)

theorem readPair_of_left {k : Nat} (h : readNode k (beginLeft s) = .done l (readPast l (beginLeft s))) :
    readPair k (afterRead 1 s) =
      (readNode k (beginRight l s)).andThen fun r v => .done (.node l r) (popPending v) :=
  congrArg (Run.andThen · _) h

end Subtrees

/-- The reader reads the tree whose serialization is ahead, where there is room to count its nodes (R205, R207). -/
theorem readNode_serialize {t : Tree} {fuel : Nat} {s : State} {rest : Bits}
    (hfuel : 514 ≤ fuel + s.hdrCount.toNat) (hn : s.hdrCount.toNat + treeSize t ≤ 513)
    (hb : bitsAhead s = serialize t ++ rest) (hp : PortsPass (headerFields t).length s.portDraws) :
    readNode fuel s = .done t (readPast t s) := by
  induction t generalizing fuel s rest with
  | leaf x =>
    obtain ⟨k, -, hflag⟩ := readNode_flag hfuel hn hp.head hb
    rw [hflag, if_pos rfl, readPast_leaf]
    exact readLeaf_data hp.tail.head (drop_inPos_add (c := [true]) hb rfl)
  | node l r ihl ihr =>
    rw [treeSize] at hn
    have hroom : s.hdrCount.toNat < 513 := by omega
    have hleft := toNat_hdrCount_beginLeft hroom
    have hright := toNat_hdrCount_beginRight (s := s) (l := l) (by omega)
    have hfields : PortsPass ((headerFields l).length + (headerFields r).length) s.portDraws.tail :=
      PortsPass.tail (by simpa [headerFields] using hp)
    rw [serialize, List.cons_append, List.append_assoc] at hb
    obtain ⟨k, (hk : 514 ≤ k + (beginLeft s).hdrCount.toNat), hflag⟩ := readNode_flag hfuel hroom hp.head hb
    have hl := ihl hk (by omega) (bitsAhead_beginLeft hb) (hfields.mono (Nat.le_add_right _ _))
    rw [hflag, if_neg Bool.false_ne_true, readPair_of_left hl,
      ihr (by omega) (by omega) (bitsAhead_beginRight hb) hfields.drop, Run.andThen_done, readPast_node]

/-! ### Where the reader stops -/

@[simp] theorem flagCount_nil : flagCount [] = 0 := rfl

@[simp] theorem flagCount_flag_cons (b : Bool) (fs : List Bits) : flagCount ([b] :: fs) = flagCount fs + 1 := by
  simp [flagCount]

@[simp] theorem flagCount_append (fs gs : List Bits) : flagCount (fs ++ gs) = flagCount fs + flagCount gs :=
  List.countP_append

/-- Why the reader cannot take a field: `n` nodes have begun with it, `draw` is the draw of its port operation and
`rest` the bits ahead; the error, and how many bits of the field have been read (R205, R280). -/
inductive FieldStop (n : Nat) (draw : Option Bool) (field rest : Bits) : ErrorKind → Nat → Prop where
  | full (hn : n = 514) : FieldStop n draw field rest .malformedHeader 0
  | failing (hn : n ≤ 513) (hd : draw = some true) : FieldStop n draw field rest .ioError 0
  | short (hn : n ≤ 513) (hd : draw ≠ some true) (hr : rest.length < field.length) :
      FieldStop n draw field rest .malformedHeader 0
  | badSymbol (hd : draw ≠ some true) (hf : field.length = 9) (v : BitVec 9) (rest' : Bits) (hv : 256 < v.toNat)
      (hr : rest = bitsOf v ++ rest') : FieldStop n draw field rest .malformedHeader 9

/-- The run raises `e` with IN_POS at `p`. -/
def RaisesAt {α : Type} (r : Run α) (e : ErrorKind) (p : Nat) : Prop := ∃ v, r = .raised e v ∧ v.inPos = p

theorem RaisesAt.andThen {α β : Type} {r : Run α} {e : ErrorKind} {p : Nat} (h : RaisesAt r e p)
    (f : α → State → Run β) : RaisesAt (r.andThen f) e p := by
  obtain ⟨v, rfl, hv⟩ := h
  exact ⟨v, rfl, hv⟩

theorem RaisesAt.of_eq {α : Type} {r : Run α} {e : ErrorKind} {p q : Nat} (h : RaisesAt r e p) (hpq : p = q) :
    RaisesAt r e q := hpq ▸ h

theorem readOrRaise_stops {s : State} {e : ErrorKind} {n : Nat} (h : s.portDraws.head? = some true ∧ e = .ioError ∨
    s.portDraws.head? ≠ some true ∧ (bitsAhead s).length < n ∧ e = .malformedHeader) :
    RaisesAt (readOrRaise n .malformedHeader s) e s.inPos := by
  obtain ⟨hd, rfl⟩ | ⟨hd, hr, rfl⟩ := h
  · exact ⟨_, readOrRaise_failing hd, rfl⟩
  · rw [List.length_drop] at hr
    exact ⟨_, readOrRaise_short hd (by omega), rfl⟩

/-- From `s` the reader can take the fields `before`, which leave `rest` ahead; with `field`, next to be read, `n` nodes
have begun, and `draw` is the draw of its port operation. -/
structure BeforeField (fuel : Nat) (s : State) (before : List Bits) (field rest : Bits) (n : Nat)
    (draw : Option Bool) : Prop where
  deep : 514 ≤ fuel + s.hdrCount.toNat
  room : s.hdrCount.toNat + flagCount before ≤ 513
  ahead : bitsAhead s = before.flatten ++ rest
  pass : PortsPass before.length s.portDraws
  count : s.hdrCount.toNat + flagCount (before ++ [field]) = n
  draws : s.portDraws[before.length]? = draw

section BeforeField

variable {fuel n : Nat} {s : State} {before : List Bits} {field rest : Bits} {draw : Option Bool}

/-- The reader takes the flag of a node (R205). -/
theorem BeforeField.take_flag {b : Bool} (h : BeforeField fuel s ([b] :: before) field rest n draw) :
    ∃ m, readNode fuel s = (if b then readLeaf (afterRead 1 s) else readPair m (afterRead 1 s)) ∧
      BeforeField m (beginLeft s) before field rest n draw := by
  obtain ⟨hdeep, hroom, hahead, hpass, hcount, hdraws⟩ := h
  rw [flagCount_flag_cons] at hroom
  rw [List.cons_append, flagCount_flag_cons] at hcount
  have hleft := toNat_hdrCount_beginLeft (s := s) (by omega)
  obtain ⟨m, hm, hflag⟩ := readNode_flag hdeep (by omega) hpass.head hahead
  exact ⟨m, hflag, hm, by omega, drop_inPos_add (c := [b]) hahead rfl, hpass.tail, by omega,
    hdraws ▸ List.getElem?_tail⟩

/-- The reader takes a whole subtree (R205). -/
theorem BeforeField.take_tree {l : Tree} (h : BeforeField fuel s (headerFields l ++ before) field rest n draw) :
    readNode fuel s = .done l (readPast l s) ∧
      BeforeField fuel (setPendingLeft l (readPast l s)) before field rest n draw := by
  obtain ⟨hdeep, hroom, hahead, hpass, hcount, hdraws⟩ := h
  rw [flagCount_append, flagCount_headerFields] at hroom
  rw [List.append_assoc, flagCount_append, flagCount_headerFields] at hcount
  rw [List.flatten_append, flatten_headerFields, List.append_assoc] at hahead
  rw [List.length_append] at hpass hdraws
  have hpast : (setPendingLeft l (readPast l s)).hdrCount.toNat = s.hdrCount.toNat + treeSize l :=
    toNat_hdrCount_readPast (by omega)
  exact ⟨readNode_serialize hdeep (by omega) hahead (hpass.mono (Nat.le_add_right _ _)), by omega, by omega,
    bitsAhead_readPast hahead, hpass.drop, by omega, hdraws ▸ List.getElem?_drop⟩

variable {e : ErrorKind} {k : Nat}

/-- A field that begins a header is a flag: the reader looks at the count before it (R205). -/
theorem readNode_flag_stops {t : Tree} {after : List Bits} (hf : headerFields t = field :: after)
    (h : BeforeField fuel s [] field rest n draw) (hstop : FieldStop n draw field rest e k) :
    RaisesAt (readNode fuel s) e (s.inPos + k) := by
  obtain ⟨b, rfl⟩ : ∃ b, field = [b] := by cases t <;> cases hf <;> exact ⟨_, rfl⟩
  obtain ⟨hdeep, -, (rfl : bitsAhead s = rest), -, (rfl : s.hdrCount.toNat + 1 = n), rfl⟩ := h
  cases fuel with
  | zero =>
    cases hstop with
    | full => exact ⟨s, rfl, rfl⟩
    | failing hcap => omega
    | short hcap => omega
    | badSymbol _ hnine => cases hnine
  | succ fuel =>
    rw [readNode_succ]
    have hne (hcap : s.hdrCount.toNat + 1 ≤ 513) : s.hdrCount ≠ 513 := fun he => by simp [he] at hcap
    cases hstop with
    | full hfull => exact ⟨s, if_pos (BitVec.eq_of_toNat_eq (by simpa using hfull)), rfl⟩
    | failing hcap hfail =>
      rw [if_neg (hne hcap)]
      exact (readOrRaise_stops (.inl ⟨List.head?_eq_getElem?.trans hfail, rfl⟩)).andThen _
    | short hcap hpass hshort =>
      rw [if_neg (hne hcap)]
      exact (readOrRaise_stops (.inr ⟨List.head?_eq_getElem? ▸ hpass, hshort, rfl⟩)).andThen _
    | badSymbol _ hnine => cases hnine

/-- A leaf whose flag has been read stops the reader at its symbol, which begins no node (R205). -/
theorem readLeaf_stops {x : Symbol} (h : BeforeField fuel (beginLeft s) [] (bitsOf (symbolField x)) rest n draw)
    (hstop : FieldStop n draw (bitsOf (symbolField x)) rest e k) :
    RaisesAt (readLeaf (afterRead 1 s)) e (s.inPos + 1 + k) := by
  obtain ⟨-, hroom, (hahead : bitsAhead (afterRead 1 s) = rest), -, hcount, hdraws⟩ := h
  rw [← hahead, ← hdraws] at hstop
  have hhead : (afterRead 1 s).portDraws.head? = (beginLeft s).portDraws[([] : List Bits).length]? :=
    List.head?_eq_getElem?
  rw [← hhead] at hstop
  cases hstop with
  | full hfull =>
    have hsymbol : flagCount ([] ++ [bitsOf (symbolField x)]) = 0 := by simp [flagCount]
    rw [flagCount_nil] at hroom
    rw [hsymbol] at hcount
    omega
  | failing _ hfail => exact (readOrRaise_stops (.inl ⟨hfail, rfl⟩)).andThen _
  | short _ hpass hshort => exact (readOrRaise_stops (.inr ⟨hpass, by simpa using hshort, rfl⟩)).andThen _
  | badSymbol hpass _ v rest' hv hr => exact ⟨_, readLeaf_badSymbol hpass hr hv, rfl⟩

end BeforeField

/-- Where a list ends in one of two lists one after the other. -/
theorem append_eq_append_cons {α : Type} {a b c d : List α} {x : α} (h : a ++ b = c ++ x :: d) :
    (∃ a', a = c ++ x :: a') ∨ ∃ c', c = a ++ c' ∧ b = c' ++ x :: d := by
  obtain ⟨c', hc, hb⟩ | ⟨_ | ⟨y, a'⟩, ha, hb⟩ := List.append_eq_append_iff.mp h
  · exact .inr ⟨c', hc, hb⟩
  · exact .inr ⟨[], by simpa using ha.symm, hb.symm⟩
  · cases hb
    exact .inl ⟨a', ha⟩

/-- The reader takes the fields before the one it cannot take, and stops at that one: the flag of the node itself, or
a field of its symbol, its left or its right subtree (R205). -/
theorem readNode_stops {t : Tree} {before after : List Bits} {field rest : Bits} {fuel n k : Nat} {draw : Option Bool}
    {e : ErrorKind} {s : State} (hf : headerFields t = before ++ field :: after)
    (h : BeforeField fuel s before field rest n draw) (hstop : FieldStop n draw field rest e k) :
    RaisesAt (readNode fuel s) e (s.inPos + before.flatten.length + k) := by
  induction t generalizing before after fuel s with
  | leaf x =>
    cases before with
    | nil => exact readNode_flag_stops hf h hstop
    | cons f before =>
      obtain ⟨rfl, rfl, rfl, -⟩ : [true] = f ∧ before = [] ∧ field = bitsOf (symbolField x) ∧ after = [] := by
        simpa [headerFields, List.singleton_eq_append_iff] using hf
      obtain ⟨m, hflag, hnext⟩ := h.take_flag
      rw [hflag, if_pos rfl]
      exact readLeaf_stops hnext hstop
  | node l r ihl ihr =>
    cases before with
    | nil => exact readNode_flag_stops hf h hstop
    | cons f before =>
      obtain ⟨rfl, hfields⟩ : [false] = f ∧ headerFields l ++ headerFields r = before ++ field :: after := by
        simpa [headerFields] using hf
      obtain ⟨m, hflag, hnext⟩ := h.take_flag
      rw [hflag, if_neg Bool.false_ne_true]
      obtain ⟨after', hl⟩ | ⟨before', rfl, hr⟩ := append_eq_append_cons hfields
      · refine ((ihl hl hnext).andThen _).of_eq ?_
        have hpos : (beginLeft s).inPos = s.inPos + 1 := rfl
        rw [List.flatten_cons, List.length_append, List.length_singleton]
        omega
      · obtain ⟨hdone, hright⟩ := hnext.take_tree
        rw [readPair_of_left hdone]
        refine ((ihr hr hright).andThen _).of_eq ?_
        have hpos : (setPendingLeft l (readPast l (beginLeft s))).inPos = s.inPos + 1 + (serialize l).length := rfl
        rw [List.flatten_cons, List.flatten_append, flatten_headerFields, List.length_append, List.length_append,
          List.length_singleton]
        omega

end Sys2Proof.Machine
end

section
/-! PROOF. HDR_READ (R205 to R207): its three ends, the header it accepts, and the state and the cursor it leaves at an
error. -/

namespace Sys2Proof.Machine

/-! ### The ends of HDR_READ -/

theorem acceptTree_eq (t : Tree) (s : State) :
    acceptTree t s = if rootLegal t then .done () (s.installTree t) else .raised .malformedHeader s := by
  cases t with
  | leaf x => simp [acceptTree, rootLegal]
  | node l r => rfl

theorem hdrReadBody_of_done {s v : State} {t : Tree} (h : readNode (Config.nodeCap + 1) (startHeader s) = .done t v) :
    hdrReadBody s = if rootLegal t then .done () (v.installTree t) else .raised .malformedHeader v := by
  rw [hdrReadBody, h, Run.andThen_done, acceptTree_eq]

theorem hdrReadBody_of_raised {s v : State} {e : ErrorKind}
    (h : readNode (Config.nodeCap + 1) (startHeader s) = .raised e v) : hdrReadBody s = .raised e v := by
  rw [hdrReadBody, h, Run.andThen_raised]

/-- How HDR_READ ends: with the tree read, on one leaf other than the sentinel, or where the reader raised (R205). -/
theorem hdrRead_cases (s : State) :
    (∃ t v, readNode (Config.nodeCap + 1) (startHeader s) = .done t v ∧ rootLegal t = true ∧
      exec .hdrRead s = .next (v.installTree t).finish) ∨
    (∃ x v, readNode (Config.nodeCap + 1) (startHeader s) = .done (.leaf x) v ∧ x ≠ Config.eos ∧
      exec .hdrRead s = .next (v.abort .malformedHeader)) ∨
    ∃ e v, readNode (Config.nodeCap + 1) (startHeader s) = .raised e v ∧ exec .hdrRead s = .next (v.abort e) := by
  cases h : readNode (Config.nodeCap + 1) (startHeader s) with
  | done t v =>
    have hbody := hdrReadBody_of_done h
    by_cases ht : rootLegal t = true
    · rw [if_pos ht] at hbody
      exact .inl ⟨t, v, rfl, ht, congrArg endCommand hbody⟩
    · rw [if_neg ht] at hbody
      cases t with
      | leaf x => exact .inr (.inl ⟨x, v, rfl, by simpa [rootLegal] using ht, congrArg endCommand hbody⟩)
      | node l r => exact absurd rfl ht
  | raised e v => exact .inr (.inr ⟨e, v, rfl, congrArg endCommand (hdrReadBody_of_raised h)⟩)
  | stuck x =>
    have hends := readNode_readerEnds (Config.nodeCap + 1) (startHeader s)
    rw [h] at hends
    exact hends.elim

theorem hdrRead_total (s : State) : ∃ u, exec .hdrRead s = .next u := by
  obtain ⟨_, _, -, -, h⟩ | ⟨_, _, -, -, h⟩ | ⟨_, _, -, h⟩ := hdrRead_cases s <;> exact ⟨_, h⟩

theorem readsFrom_of_done {fuel : Nat} {s v : State} {t : Tree} (h : readNode fuel s = .done t v) : ReadsFrom s v := by
  simpa [h, ReaderEnds] using readNode_readerEnds fuel s

theorem readsFrom_of_raised {fuel : Nat} {s v : State} {e : ErrorKind} (h : readNode fuel s = .raised e v) :
    ReadsFrom s v ∧ (e = .malformedHeader ∨ e = .ioError ∧ true ∈ s.portDraws) := by
  simpa [h, ReaderEnds] using readNode_readerEnds fuel s

theorem ReadsFrom.err_eq {s t : State} (h : ReadsFrom s t) : t.err = s.err := by
  obtain ⟨_, _, _, _, -⟩ := h
  rfl

/-- The state an error of HDR_READ leaves (R205). -/
theorem ReadsFrom.abort_startHeader {s v : State} (h : ReadsFrom (startHeader s) v) (e : ErrorKind) :
    v.abort e = { s with
      busy := false, err := true, errCode := errorCode e, tree := none, codesValid := false, dstate := .unarmed,
      dpath := [], hdrStack := v.hdrStack, hdrCount := v.hdrCount, inPos := v.inPos, portDraws := v.portDraws } := by
  obtain ⟨_, _, _, _, -⟩ := h
  rfl

/-! ### The header HDR_READ accepts -/

/-- HDR_READ of a legal tree's header installs the tree and stops right after the header (R207). -/
theorem hdrRead_of_header {t : Tree} {s : State} {rest : Bits} (ht : legalTree t = true)
    (hb : bitsAhead s = serialize t ++ rest) (hp : PortsPass (headerFields t).length s.portDraws) :
    exec .hdrRead s = .next ((readPast t (startHeader s)).installTree t).finish := by
  obtain ⟨hsize, hroot⟩ := legalTree_iff.mp ht
  have hread := readNode_serialize (t := t) (fuel := Config.nodeCap + 1) (s := startHeader s) (Nat.le_add_right _ _)
    (by simpa using hsize) hb hp
  have hbody := hdrReadBody_of_done hread
  rw [if_pos hroot] at hbody
  exact congrArg endCommand hbody

/-- Settles O36: the header is read, and what HDR_WRITE and CODE_DERIVE then do rests on the tree installed alone. -/
theorem headerRoundTrip : Obligations.HeaderRoundTrip := by
  intro t s rest ht hp hb
  have hread := hdrRead_of_header ht hb (hp.portsPass _)
  have hp' : NoPortFailure ((readPast t (startHeader s)).installTree t).finish := hp.drop rfl
  have hwrite := congrArg endCommand
    ((hdrWriteBody_eq (s := ((readPast t (startHeader s)).installTree t).finish) rfl).trans
      (writeFields_passing (hp'.portsPass _)))
  refine ⟨_, _, _, hread, rfl, rfl, rfl, hwrite, ?_, rfl, rfl⟩
  simp [wrote, readPast]

/-- Settles O37: a tree that was read is what was ahead, of as many nodes as were counted; and the header of a legal
tree leaves no error, so after one there was none, and the ports not failing it is MALFORMED_HEADER. -/
theorem headerReadAcceptsExactlyHeaders : Obligations.HeaderReadAcceptsExactlyHeaders := by
  intro s u hs hp hu
  have hnone (he : u.err = true) :
      ¬ ∃ t rest, legalTree t = true ∧ s.inBits.drop s.inPos = serialize t ++ rest := by
    rintro ⟨t, rest, ht, hb⟩
    rw [hdrRead_of_header ht hb (hp.portsPass _)] at hu
    cases hu
    exact Bool.false_ne_true (hs.symm.trans he)
  obtain ⟨t, v, hr, hroot, h⟩ | ⟨x, v, -, -, h⟩ | ⟨e, v, hr, h⟩ := hdrRead_cases s <;> cases h.symm.trans hu
  · have hclear : v.err = false := (readsFrom_of_done hr).err_eq.trans hs
    obtain ⟨(hb : bitsAhead s = serialize t ++ bitsAhead v), (hpos : v.inPos = s.inPos + (serialize t).length)⟩ :=
      readNode_sound hr
    obtain ⟨-, -, (hcount : v.hdrCount.toNat = 0 + treeSize t), hcap⟩ := readNode_eq_done hr (by simp)
    refine ⟨fun _ => ⟨t, rfl, legalTree_iff.mpr ⟨by omega, hroot⟩, ?_, ?_⟩, fun he => ?_⟩
    · exact hpos ▸ Nat.le_add_right _ _
    · rw [State.finish_inPos, State.installTree_inPos, hpos, Nat.add_sub_cancel_left]
      exact (congrArg _ hb).trans (List.take_left' rfl)
    · exact absurd (hclear.symm.trans he) Bool.false_ne_true
  · exact ⟨(nomatch ·), fun he => ⟨rfl, hnone he⟩⟩
  · obtain ⟨-, rfl | ⟨-, hd⟩⟩ := readsFrom_of_raised hr
    · exact ⟨(nomatch ·), fun he => ⟨rfl, hnone he⟩⟩
    · exact absurd (hp true hd) (by decide)

/-! ### Where an error leaves HDR_READ -/

/-- HDR_READ stops where the reader does. -/
theorem hdrRead_stops {s u : State} {t : Tree} {j k : Nat} {field rest : Bits} {e : ErrorKind}
    (hf : (headerFields t)[j]? = some field) (hcap : flagCount ((headerFields t).take j) ≤ 513)
    (hb : bitsAhead s = ((headerFields t).take j).flatten ++ rest) (hp : PortsPass j s.portDraws)
    (hu : exec .hdrRead s = .next u)
    (hstop : FieldStop (flagCount ((headerFields t).take (j + 1))) s.portDraws[j]? field rest e k) :
    u.err = true ∧ u.errCode = errorCode e ∧ u.inPos = s.inPos + ((headerFields t).take j).flatten.length + k := by
  have hj : j < (headerFields t).length := (List.getElem?_eq_some_iff.mp hf).1
  have hlen : ((headerFields t).take j).length = j := List.length_take_of_le hj.le
  have hsplit : headerFields t = (headerFields t).take j ++ field :: (headerFields t).drop (j + 1) := by
    rw [← (List.getElem?_eq_some_iff.mp hf).2, ← List.drop_eq_getElem_cons hj, List.take_append_drop]
  have hcount : (headerFields t).take j ++ [field] = (headerFields t).take (j + 1) := by
    rw [List.take_add_one, hf, Option.toList_some]
  have hbefore : BeforeField (Config.nodeCap + 1) (startHeader s) ((headerFields t).take j) field rest
      (flagCount ((headerFields t).take (j + 1))) s.portDraws[j]? :=
    ⟨Nat.le_add_right _ _, by simpa using hcap, hb, hlen.symm ▸ hp, by simp [← hcount], by rw [hlen]; rfl⟩
  obtain ⟨v, hv, hpos⟩ := readNode_stops hsplit hbefore hstop
  cases (congrArg endCommand (hdrReadBody_of_raised hv)).symm.trans hu
  exact ⟨rfl, rfl, hpos⟩

/-- Settles O38: the errors of HDR_READ are those of its ends, and by the header's fields the reader stops at the first
one it cannot take. -/
theorem headerReadFailureState : Obligations.HeaderReadFailureState := by
  refine ⟨fun s u hs hu he => ?_, fun s t j field rest hf hcap hb hp => ?_, fun s x rest hx hb hp => ?_⟩
  · obtain ⟨t, v, hr, -, h⟩ | ⟨x, v, hr, hx, h⟩ | ⟨e, v, hr, h⟩ := hdrRead_cases s <;> cases h.symm.trans hu
    · have hclear : v.err = false := (readsFrom_of_done hr).err_eq.trans hs
      exact absurd (hclear.symm.trans he) Bool.false_ne_true
    · exact ⟨.inl rfl, .inr ⟨x, v, hr, hx, rfl, rfl⟩, (readsFrom_of_done hr).abort_startHeader _⟩
    · obtain ⟨hfrom, herr⟩ := readsFrom_of_raised hr
      refine ⟨?_, .inl ⟨e, v, hr, rfl, rfl⟩, hfrom.abort_startHeader _⟩
      obtain rfl | ⟨rfl, -⟩ := herr
      · exact .inl rfl
      · exact .inr rfl
  · obtain ⟨u, hu⟩ := hdrRead_total s
    refine ⟨u, hu, fun hn => hdrRead_stops hf hcap hb hp hu (.full hn), fun hn => ⟨fun hd => ?_, fun hd hr => ?_,
      fun v rest' hd h9 hv hr => ?_⟩⟩
    · exact hdrRead_stops hf hcap hb hp hu (.failing hn hd)
    · exact hdrRead_stops hf hcap hb hp hu (.short hn hd hr)
    · exact hdrRead_stops hf hcap hb hp hu (.badSymbol hd h9 v rest' hv hr)
  · have hread := readNode_serialize (t := .leaf x) (fuel := Config.nodeCap + 1) (s := startHeader s)
      (Nat.le_add_right _ _) (by simp [treeSize]) hb hp
    have hbody := hdrReadBody_of_done hread
    rw [if_neg (by simpa [rootLegal] using hx)] at hbody
    refine ⟨_, congrArg endCommand hbody, rfl, rfl, ?_⟩
    simp [readPast, length_serialize, treeInternal, treeLeaves]

end Sys2Proof.Machine
end

section
/-! PROOF. The stream encoder's parts (R211, R216, R217): the codes of some bytes, what emitting one symbol does at each
answer of the port, one turn of ENC_PASS's loop, and from these the loop itself: it writes the codes of the bytes before
its first stop. -/

namespace Sys2Proof.Machine

/-! ### The codes of some bytes -/

theorem codesOfBytes_cons_eq_some_iff {table : Vector (Option Bits) 257} {b : Byte} {B : List Byte} {c : Bits} :
    codesOfBytes table (b :: B) = some c ↔
      ∃ p q, table[byteSymbol b] = some p ∧ codesOfBytes table B = some q ∧ p ++ q = c := by
  rw [codesOfBytes]
  split
  · simp_all
  · rename_i hnone
    simp only [reduceCtorEq, false_iff]
    rintro ⟨p, q, hp, hq, -⟩
    exact hnone p q hp hq

/-- The body is the codes of the bytes, then the sentinel's (R211). -/
theorem bodyOf_eq_some_iff {table : Vector (Option Bits) 257} {B : List Byte} {body : Bits} :
    bodyOf table B = some body ↔
      ∃ c p, codesOfBytes table B = some c ∧ table[Config.eos] = some p ∧ c ++ p = body := by
  induction B generalizing body with
  | nil => simp [bodyOf, codesOfBytes]
  | cons b B ih =>
    rw [bodyOf]
    split
    · rename_i x rest hx hrest
      obtain ⟨c, p, hc, hp, rfl⟩ := ih.mp hrest
      simp [codesOfBytes, hx, hc, hp]
    · rename_i hnone
      simp only [reduceCtorEq, false_iff]
      rintro ⟨c, p, hc, hp, -⟩
      obtain ⟨x, q, hx, hq, -⟩ := codesOfBytes_cons_eq_some_iff.mp hc
      exact hnone x (q ++ p) hx (ih.mpr ⟨q, p, hq, hp, rfl⟩)

/-! ### The state after some bytes were read and some bits written -/

/-- The state after `ops` port operations have read `bytes` bytes and written the bits `c` (R61, R63). -/
def encoded (bytes ops : Nat) (c : Bits) (s : State) : State :=
  { s with inPos := s.inPos + 8 * bytes, outBits := s.outBits ++ c, portDraws := s.portDraws.drop ops }

@[simp] theorem codeFor_encoded (m k : Nat) (c : Bits) (s : State) (x : Symbol) :
    (encoded m k c s).codeFor x = s.codeFor x := rfl

@[simp] theorem encoded_encoded (m k m' k' : Nat) (c c' : Bits) (s : State) :
    encoded m' k' c' (encoded m k c s) = encoded (m + m') (k + k') (c ++ c') s := by
  simp [encoded, Nat.mul_add, Nat.add_assoc]

theorem bytesAhead_encoded {B rest : List Byte} {s : State} (h : bytesAhead s = B ++ rest) (k : Nat) (c : Bits) :
    bytesAhead (encoded B.length k c s) = rest := bytesAhead_scanned h

theorem bytesAhead_encoded_one {b : Byte} {B : List Byte} {s : State} (h : bytesAhead s = b :: B) (k : Nat) (c : Bits) :
    bytesAhead (encoded 1 k c s) = B := bytesAhead_encoded (B := [b]) h k c

/-! ### Emitting one symbol -/

section Emit

variable {x : Symbol} {c : Bits} {s : State}

theorem emitSymbol_of_none (hc : s.codeFor x = none) : emitSymbol x s = .raised .noCode s := by
  simp [emitSymbol, hc]

theorem emitSymbol_of_some (hc : s.codeFor x = some c) : emitSymbol x s = writeBits c s := by
  simp [emitSymbol, hc]

theorem emitSymbol_passing (hc : s.codeFor x = some c) (hp : PortsPass c.length s.portDraws) :
    emitSymbol x s = .done () (encoded 0 c.length c s) :=
  (emitSymbol_of_some hc).trans (writeBits_passing hp)

/-- Where the port fails at bit `j` of the code, the bits before it are written (R63). -/
theorem emitSymbol_failing {j : Nat} (hc : s.codeFor x = some c) (hj : j < c.length) (hp : PortsPass j s.portDraws)
    (hf : s.portDraws[j]? = some true) :
    emitSymbol x s = .raised .ioError (encoded 0 (j + 1) (c.take j) s) :=
  (emitSymbol_of_some hc).trans (writeBits_failing hj hp hf)

/-- A symbol is emitted without an error only where it has a code, and that code is what was written. -/
theorem emitSymbol_eq_done {u : State} (h : emitSymbol x s = .done () u) :
    ∃ c, s.codeFor x = some c ∧ u = encoded 0 c.length c s := by
  obtain ⟨hn, -⟩ | ⟨c, he, hc⟩ := emitSymbol_cases x s
  · cases hn.symm.trans h
  · obtain hw | ⟨j, -, hw⟩ := writeBits_cases c s <;> cases (he.trans hw).symm.trans h
    exact ⟨c, hc, rfl⟩

end Emit

/-! ### One turn of ENC_PASS -/

theorem encPassTurn_failing {s : State} (hp : s.portDraws.head? = some true) :
    encPassTurn s = .raised .ioError (encoded 0 1 [] s) := by
  simp [encPassTurn, readOrBreak, portRead_failing 8 hp, encoded]

theorem encPassTurn_nil {s : State} (hp : s.portDraws.head? ≠ some true) (hb : bytesAhead s = []) :
    encPassTurn s = .done false (encoded 0 1 [] s) := by
  simp [encPassTurn, readOrBreak, portRead_short hp ((bytesAhead_eq_nil_iff s).mp hb), encoded]

/-- A turn that reads a byte goes on to emit it (R217). -/
theorem encPassTurn_cons {b : Byte} {B : List Byte} {s : State} (hp : s.portDraws.head? ≠ some true)
    (hb : bytesAhead s = b :: B) :
    encPassTurn s = (emitSymbol (byteSymbol b) (encoded 1 1 [] s)).andThen fun _ t => .done true t := by
  obtain ⟨hlen, rfl, -⟩ := bytesAhead_eq_cons hb
  simp [encPassTurn, readOrBreak, portRead_data hp hlen, encoded]

/-! ### The loop of ENC_PASS -/

/-- The loop reads the bytes `B` and writes their codes where no port operation of these fails. -/
theorem encPassLoop_encodes {B rest : List Byte} {c : Bits} {s : State} (n : Nat) (hb : bytesAhead s = B ++ rest)
    (hc : codesOfBytes s.code B = some c) (hp : PortsPass (B.length + c.length) s.portDraws) :
    repeatWhile (B.length + n) encPassTurn s =
      repeatWhile n encPassTurn (encoded B.length (B.length + c.length) c s) := by
  induction B generalizing c s with
  | nil =>
    cases hc
    simp [encoded]
  | cons b B ih =>
    obtain ⟨p, q, hpb, hq, rfl⟩ := codesOfBytes_cons_eq_some_iff.mp hc
    have hops : (b :: B).length + (p ++ q).length = 1 + p.length + (B.length + q.length) := by
      simp only [List.length_cons, List.length_append]
      omega
    rw [hops] at hp ⊢
    have hhead : s.portDraws.head? ≠ some true := (hp.mono (show 0 + 1 ≤ _ by omega)).head
    have hcode : PortsPass p.length (s.portDraws.drop 1) := (hp.mono (Nat.le_add_right _ _)).drop
    have hturn : encPassTurn s = .done true (encoded 1 (1 + p.length) p s) := by
      rw [encPassTurn_cons hhead hb, emitSymbol_passing (s := encoded 1 1 [] s) hpb hcode]
      simp
    rw [List.length_cons, Nat.add_right_comm, repeatWhile_succ, hturn, Run.andThen_done, if_pos rfl,
      ih (bytesAhead_encoded_one hb _ p) hq hp.drop, encoded_encoded, Nat.add_comm 1 B.length]

/-- A loop that ends without an error has written the codes of all the bytes ahead. -/
theorem encPassLoop_eq_done {n : Nat} {s u : State} (h : repeatWhile n encPassTurn s = .done () u) :
    ∃ m k c, codesOfBytes s.code (bytesAhead s) = some c ∧ u = encoded m k c s := by
  induction n generalizing s with
  | zero => cases h
  | succ n ih =>
    rw [repeatWhile_succ] at h
    by_cases hp : s.portDraws.head? = some true
    · rw [encPassTurn_failing hp] at h
      cases h
    cases hb : bytesAhead s with
    | nil =>
      rw [encPassTurn_nil hp hb] at h
      cases h
      exact ⟨0, 1, [], rfl, rfl⟩
    | cons b B =>
      rw [encPassTurn_cons hp hb, Run.andThen_assoc] at h
      obtain ⟨_, v, hv, hloop⟩ := Run.andThen_eq_done.mp h
      obtain ⟨p, hpb, rfl⟩ := emitSymbol_eq_done hv
      rw [encoded_encoded, Nat.add_zero, List.nil_append] at hloop
      obtain ⟨m, k, q, hq, rfl⟩ := ih hloop
      rw [bytesAhead_encoded_one hb] at hq
      exact ⟨_, _, p ++ q, codesOfBytes_cons_eq_some_iff.mpr ⟨p, q, hpb, hq, rfl⟩, encoded_encoded ..⟩

end Sys2Proof.Machine
end

section
/-! PROOF. The stream encoder's commands (R211 to R217): ENC_SYM, and ENC_PASS past the bytes before its first stop. -/

namespace Sys2Proof.Machine

/-! ### ENC_SYM -/

/-- ENC_SYM's word for a symbol (R93, R216). -/
theorem decodeWord_encSym (x : Symbol) :
    decodeWord (0x00000050#32 ||| ((symbolField x).setWidth 32 <<< 8)) = .command (.encSym (symbolField x)) := by
  have hw : encode (.encSym (symbolField x)) = 0x00000050#32 ||| ((symbolField x).setWidth 32 <<< 8) := by
    rw [encode, append_eq_or_shiftLeft]
    simp [opcodeOf, symOperand, wordOperand]
  exact hw ▸ decodeWord_encode (symbolInRange_symbolField x)

theorem encSymBody_of_not_codesValid {s : State} (hv : s.codesValid = false) (x : Symbol) :
    encSymBody (symbolField x) s = .raised .noCodes s := by
  simp [encSymBody, requireCodes, hv]

theorem encSymBody_of_codesValid {s : State} (hv : s.codesValid = true) (x : Symbol) :
    encSymBody (symbolField x) s = emitSymbol x s := by
  simp [encSymBody, requireCodes, hv]

theorem encSymBody_of_gt {v : BitVec 9} (hv : 256 < v.toNat) (s : State) :
    encSymBody v s = .raised .illegalCommand s := by
  rw [encSymBody, requireSymbol_of_gt hv, Run.andThen_raised]

/-- Settles O41: past its preconditions ENC_SYM is the emission of its symbol. -/
theorem encSymEmitsTheCode : Obligations.EncSymEmitsTheCode := by
  refine ⟨fun x s => ⟨decodeWord_encSym x, fun hv => congrArg endCommand (encSymBody_of_not_codesValid hv x),
    fun hv hc => ?_, fun c hv hc => ⟨fun hp => ?_, fun j hj hp hf => ?_⟩⟩,
    fun v s hv => congrArg endCommand (encSymBody_of_gt hv s)⟩
  all_goals have hbody := encSymBody_of_codesValid hv x
  · exact congrArg endCommand (hbody.trans (emitSymbol_of_none hc))
  · exact congrArg endCommand (hbody.trans (emitSymbol_passing hc (hp.portsPass _)))
  · exact congrArg endCommand (hbody.trans (emitSymbol_failing hc hj hp hf))

/-! ### ENC_PASS -/

theorem encPassBody_of_not_codesValid {s : State} (hv : s.codesValid = false) :
    encPassBody s = .raised .noCodes s := by
  simp [encPassBody, requireCodes, hv]

theorem encPassBody_of_codesValid {s : State} (hv : s.codesValid = true) :
    encPassBody s =
      (repeatWhile (bitsLeft s / 8 + 1) encPassTurn s).andThen fun _ u => emitSymbol Config.eos u := by
  simp [encPassBody, requireCodes, hv]

section PastBytes

variable {B rest : List Byte} {c : Bits} {s : State}

/-- ENC_PASS past the bytes `B`: the bound of R105 leaves a turn for each other byte ahead and one for the end. -/
theorem encPassBody_eq (hv : s.codesValid = true) (hb : bytesAhead s = B ++ rest)
    (hc : codesOfBytes s.code B = some c) (hp : PortsPass (B.length + c.length) s.portDraws) :
    encPassBody s =
      (repeatWhile (rest.length + 1) encPassTurn (encoded B.length (B.length + c.length) c s)).andThen
        fun _ u => emitSymbol Config.eos u := by
  have hlen : bitsLeft s / 8 + 1 = B.length + (rest.length + 1) := by
    rw [← length_bytesAhead, hb, List.length_append, Nat.add_assoc]
  rw [encPassBody_of_codesValid hv, hlen, encPassLoop_encodes _ hb hc hp]

/-- A failing read ends ENC_PASS after the codes of the bytes before it (R217). -/
theorem encPassBody_readFailing (hv : s.codesValid = true) (hb : bytesAhead s = B ++ rest)
    (hc : codesOfBytes s.code B = some c) (hp : PortsPass (B.length + c.length) s.portDraws)
    (hf : s.portDraws[B.length + c.length]? = some true) :
    encPassBody s = .raised .ioError (encoded B.length (B.length + c.length + 1) c s) := by
  have hhead : (encoded B.length (B.length + c.length) c s).portDraws.head? = some true := List.head?_drop.trans hf
  rw [encPassBody_eq hv hb hc hp, repeatWhile_succ, encPassTurn_failing hhead]
  simp

/-- An error at a byte ends ENC_PASS, that byte consumed and the codes of the bytes before it written (R217). -/
theorem encPassBody_of_byte_raised {b : Byte} {e : ErrorKind} {u : State} (hv : s.codesValid = true)
    (hb : bytesAhead s = B ++ b :: rest) (hc : codesOfBytes s.code B = some c)
    (hp : PortsPass (B.length + c.length + 1) s.portDraws)
    (he : emitSymbol (byteSymbol b) (encoded (B.length + 1) (B.length + c.length + 1) c s) = .raised e u) :
    encPassBody s = .raised e u := by
  have hturn := encPassTurn_cons (s := encoded B.length (B.length + c.length) c s) hp.drop.head
    (bytesAhead_encoded hb _ _)
  rw [encoded_encoded, List.append_nil, he] at hturn
  rw [encPassBody_eq hv hb hc (hp.mono (Nat.le_succ _)), repeatWhile_succ, hturn]
  rfl

/-- With every byte's code written and the end of data read, the sentinel is left to emit (R217). -/
theorem encPassBody_eq_emit_eos (hv : s.codesValid = true) (hc : codesOfBytes s.code (bytesAhead s) = some c)
    (hp : PortsPass ((bytesAhead s).length + c.length + 1) s.portDraws) :
    encPassBody s =
      emitSymbol Config.eos (encoded (bytesAhead s).length ((bytesAhead s).length + c.length + 1) c s) := by
  have hb : bytesAhead s = bytesAhead s ++ [] := (List.append_nil _).symm
  rw [encPassBody_eq hv hb hc (hp.mono (Nat.le_succ _)), List.length_nil, repeatWhile_succ,
    encPassTurn_nil hp.drop.head (bytesAhead_encoded hb _ _)]
  simp

end PastBytes

/-- An ENC_PASS with no error has written the body of the bytes ahead (R211). -/
theorem encPassBody_eq_done {s u : State} (h : encPassBody s = .done () u) :
    ∃ body, bodyOf s.code (bytesAhead s) = some body ∧ u.outBits = s.outBits ++ body := by
  cases hv : s.codesValid with
  | false => cases (encPassBody_of_not_codesValid hv).symm.trans h
  | true =>
    rw [encPassBody_of_codesValid hv] at h
    obtain ⟨_, v, hloop, hemit⟩ := Run.andThen_eq_done.mp h
    obtain ⟨m, k, c, hc, rfl⟩ := encPassLoop_eq_done hloop
    obtain ⟨p, hp, rfl⟩ := emitSymbol_eq_done hemit
    exact ⟨c ++ p, bodyOf_eq_some_iff.mpr ⟨c, p, hc, hp, rfl⟩, List.append_assoc ..⟩

/-- Settles O42: the codes of all the bytes ahead and then the sentinel's are the body. -/
theorem encPassWritesTheBody : Obligations.EncPassWritesTheBody := by
  refine ⟨fun s body hv hn hbody => ?_, fun s t _ ht he => ?_⟩
  · obtain ⟨c, p, hc, hp, rfl⟩ := bodyOf_eq_some_iff.mp hbody
    have hend := (encPassBody_eq_emit_eos hv hc (hn.portsPass _)).trans
      (emitSymbol_passing hp ((hn.drop rfl).portsPass _))
    rw [encoded_encoded, length_bytesAhead] at hend
    exact ⟨_, congrArg endCommand hend, rfl⟩
  · obtain ⟨u, hu, rfl⟩ | ⟨e, u, -, rfl⟩ := endCommand_eq_next.mp ht
    · exact encPassBody_eq_done (u := u) hu
    · cases he

/-- Settles O43: ENC_PASS stops at its first read or emission that raises, past the bytes `B` before it. -/
theorem encPassStopsAtAMissingCode : Obligations.EncPassStopsAtAMissingCode := by
  refine fun s => ⟨fun hv => congrArg endCommand (encPassBody_of_not_codesValid hv),
    fun B b B' c hv hn hb hc hnone => ?_, fun c hv hn hc hnone => ?_,
    fun B B' c n hv hb hc hp hf => ⟨?_, ?_, ?_⟩⟩
  · exact ⟨_, congrArg endCommand
      (encPassBody_of_byte_raised hv hb hc (hn.portsPass _) (emitSymbol_of_none hnone)), rfl⟩
  · have hend := (encPassBody_eq_emit_eos hv hc (hn.portsPass _)).trans (emitSymbol_of_none hnone)
    rw [length_bytesAhead] at hend
    exact ⟨_, congrArg endCommand hend, rfl⟩
  · rintro rfl
    exact congrArg endCommand (encPassBody_readFailing hv hb hc hp hf)
  · rintro b bs p j rfl hpb hj rfl
    have hemit := emitSymbol_failing (s := encoded (B.length + 1) (B.length + c.length + 1) c s) hpb hj
      (PortsPass.drop hp) (List.getElem?_drop.trans hf)
    rw [encoded_encoded] at hemit
    rw [List.append_assoc]
    exact congrArg endCommand
      (encPassBody_of_byte_raised hv hb hc (PortsPass.mono hp (Nat.le_add_right _ _)) hemit)
  · rintro p j rfl hpe hj rfl
    obtain rfl : bytesAhead s = B := hb.trans (List.append_nil B)
    have hemit := emitSymbol_failing
      (s := encoded (bytesAhead s).length ((bytesAhead s).length + c.length + 1) c s) hpe hj (PortsPass.drop hp)
      (List.getElem?_drop.trans hf)
    rw [encoded_encoded] at hemit
    rw [List.append_assoc]
    exact congrArg endCommand
      ((encPassBody_eq_emit_eos hv hc (PortsPass.mono hp (Nat.le_add_right _ _))).trans hemit)

end Sys2Proof.Machine
end

section
/-! PROOF. The decoder's step (R226, R230): the words RESULT gets, what settling a leaf and reading a bit do at each
answer of the port, and from these DEC_RESTART (R229) and DEC_BIT (R231). -/

namespace Sys2Proof.Machine

/-! ### RESULT -/

/-- LEAF is set in every leaf's word (R33). -/
@[simp] theorem getElem_leafResult (x : Symbol) : (leafResult x)[16] = true := by
  rw [← BitVec.getLsbD_eq_getElem]
  simp only [leafResult, BitVec.getLsbD_append]
  simp

theorem leafResult_eos : leafResult Config.eos = 0x00030100 := by decide

theorem leafResult_byte {x : Symbol} (hx : x ≠ Config.eos) :
    leafResult x = BitVec.ofNat 32 (0x00010000 + x.val) := by
  have hlt := x.isLt
  have hne : (x == Config.eos) = false := beq_false_of_ne hx
  have hmod : x.val % 512 = x.val := by omega
  apply BitVec.eq_of_toNat_eq
  simp only [leafResult, symbolField, hne, BitVec.toNat_append, BitVec.toNat_ofNat, hmod]
  rw [← Nat.shiftLeft_add_eq_or_of_lt (by omega)]
  simp
  omega

/-! ### Settling a leaf -/

section Settle

variable {x : Symbol} {s : State}

theorem settleLeaf_eos (s : State) :
    settleLeaf Config.eos s = .done () { s with dpath := [], dstate := .done, result := 0x00030100 } :=
  (if_pos rfl).trans (leafResult_eos ▸ rfl)

theorem settleLeaf_passing (hx : x ≠ Config.eos) (hp : s.portDraws.head? ≠ some true) :
    settleLeaf x s = .done () { s with
      dpath := [], dstate := .atRoot, result := BitVec.ofNat 32 (0x00010000 + x.val),
      portDraws := s.portDraws.tail, outBits := s.outBits ++ bitsOf (symbolByte x) } := by
  rw [settleLeaf, if_neg hx, leafResult_byte hx]
  exact writeField_passing _ hp

/-- A failing write loses the byte, the decoder already at the root (R236). -/
theorem settleLeaf_failing (hx : x ≠ Config.eos) (hf : s.portDraws.head? = some true) :
    settleLeaf x s = .raised .ioError { s with
      dpath := [], dstate := .atRoot, result := BitVec.ofNat 32 (0x00010000 + x.val),
      portDraws := s.portDraws.tail } := by
  rw [settleLeaf, if_neg hx, leafResult_byte hx]
  exact writeField_failing _ hf

end Settle

/-! ### One step -/

/-- The node at DPATH (R108). -/
abbrev NodeAt (s : State) (n : Tree) : Prop := ∃ t, s.tree = some t ∧ subtree t s.dpath = some n

theorem currentNode_of_nodeAt {s : State} {n : Tree} (h : NodeAt s n) : currentNode s = .done n s := by
  obtain ⟨t, ht, hn⟩ := h
  simp [currentNode, ht, hn]

/-- A bit leads from an internal node to one of its two subtrees (R108). -/
theorem NodeAt.child {s u : State} {l r : Tree} {b : Bool} (h : NodeAt s (.node l r)) (ht : u.tree = s.tree)
    (hp : u.dpath = s.dpath ++ [b]) : NodeAt u (bif b then r else l) := by
  obtain ⟨t, hs, hn⟩ := h
  refine ⟨t, ht.trans hs, ?_⟩
  rw [hp, subtree_append, hn, Option.bind_some, subtree_node_cons, subtree_nil]

section Step

variable {s : State} {x : Symbol} {l r : Tree}

theorem decStep_leaf (h : NodeAt s (.leaf x)) : decStep s = settleLeaf x s := by
  rw [decStep, currentNode_of_nodeAt h]
  rfl

theorem decStep_failing (h : NodeAt s (.node l r)) (hf : s.portDraws.head? = some true) :
    decStep s = .raised .ioError { s with portDraws := s.portDraws.tail } := by
  rw [decStep, currentNode_of_nodeAt h, Run.andThen_done, readOrRaise_failing hf]
  rfl

theorem decStep_short (h : NodeAt s (.node l r)) (hp : s.portDraws.head? ≠ some true)
    (hn : s.inBits.length ≤ s.inPos) :
    decStep s = .raised .missingTerminator { s with portDraws := s.portDraws.tail } := by
  rw [decStep, currentNode_of_nodeAt h, Run.andThen_done, readOrRaise_short hp (Nat.lt_succ_of_le hn)]
  rfl

/-- A bit that is read leads to a subtree, where the step arrives (R230). -/
theorem decStep_bit {b : Bool} {rest : Bits} (h : NodeAt s (.node l r)) (hp : s.portDraws.head? ≠ some true)
    (hb : bitsAhead s = b :: rest) :
    decStep s = arriveAt (bif b then r else l) { afterRead 1 s with dpath := s.dpath ++ [b] } := by
  have hread : readOrRaise 1 .missingTerminator s = .done (BitVec.ofBool b) (afterRead 1 s) :=
    readOrRaise_data hp (by rw [bitsOf_ofBool]; exact hb) Nat.one_pos
  have hbit : (BitVec.ofBool b == 1) = b := by cases b <;> rfl
  have hchild : NodeAt { afterRead 1 s with dpath := s.dpath ++ [b] } (bif b then r else l) := h.child rfl rfl
  rw [decStep, currentNode_of_nodeAt h, Run.andThen_done]
  simp only [hread, Run.andThen_done, hbit]
  exact congrArg (Run.andThen · arriveAt) (currentNode_of_nodeAt hchild)

end Step

/-! ### DEC_RESTART and DEC_BIT -/

/-- The armed decoder passes the preconditions of R231. -/
theorem requireArmed_of_armed {s : State} (h : s.dstate = .atRoot ∨ s.dstate = .midPath) :
    requireArmed s = .done () s := by
  obtain h | h := h <;> simp [requireArmed, h]

theorem requireArmed_of_unarmed {s : State} (h : s.dstate = .unarmed) : requireArmed s = .raised .noTree s := by
  simp [requireArmed, h]

theorem requireArmed_of_done {s : State} (h : s.dstate = .done) : requireArmed s = .raised .decoderDone s := by
  simp [requireArmed, h]

theorem decBitBody_of_armed {s : State} (h : s.dstate = .atRoot ∨ s.dstate = .midPath) :
    decBitBody s = decStep s := by
  rw [decBitBody, requireArmed_of_armed h, Run.andThen_done]

/-- A decoder that is not armed ends each of its reading commands with nothing else changed (R231 to R233). -/
theorem exec_of_requireArmed_raised {i : Instr} {s : State} {e : ErrorKind}
    (hi : i = .decBit ∨ i = .decSym ∨ i = .decPass) (h : requireArmed s = .raised e s) :
    exec i s = .next (s.abort e) := by
  obtain rfl | rfl | rfl := hi <;>
    simp [exec, execDecBit, execDecSym, execDecPass, decBitBody, decSymBody, decPassBody, h]

/-- Settles O44: `require_tree` passes or raises, and nothing after it can fail. -/
theorem decRestartArms : Obligations.DecRestartArms := by
  refine ⟨by decide, fun s => ⟨fun hne => ?_, fun hnone => ?_⟩⟩ <;>
    obtain ⟨h, ht⟩ | ⟨t, h, ht⟩ := requireTree_cases s
  · exact absurd ht hne
  · simp [exec, execDecRestart, decRestartBody, h, State.finish]
  · simp [exec, execDecRestart, decRestartBody, h, State.abort, errorCode]
  · cases ht.symm.trans hnone

/-- Settles O45: the rows are the step at a leaf, and at an internal node by the port's answer, the bit, and what the
bit leads to. -/
theorem decBitTransitions : Obligations.DecBitTransitions := by
  refine ⟨fun s i hi => ⟨fun h => ?_, fun h => ?_⟩, fun s harm hpath ht => ?_,
    fun s t l r harm ht hsub => ⟨fun hf => ?_, fun hp hn => ?_, fun b hp hb => ?_⟩⟩
  · exact exec_of_requireArmed_raised hi (requireArmed_of_unarmed h)
  · exact exec_of_requireArmed_raised hi (requireArmed_of_done h)
  · have hleaf : NodeAt s (.leaf Config.eos) := ⟨_, ht, hpath ▸ subtree_nil _⟩
    have hend := congrArg endCommand ((decBitBody_of_armed (.inl harm)).trans
      ((decStep_leaf hleaf).trans (settleLeaf_eos s)))
    rw [← hpath] at hend
    exact hend
  all_goals
    have hnode : NodeAt s (.node l r) := ⟨t, ht, hsub⟩
    have hbody := decBitBody_of_armed harm
  · exact congrArg endCommand (hbody.trans (decStep_failing hnode hf))
  · exact congrArg endCommand (hbody.trans (decStep_short hnode hp hn))
  · obtain ⟨hlt, hget⟩ := List.getElem?_eq_some_iff.mp hb
    have hahead : bitsAhead s = b :: s.inBits.drop (s.inPos + 1) := hget ▸ List.drop_eq_getElem_cons hlt
    have hstep := hbody.trans (decStep_bit hnode hp hahead)
    rw [Bool.cond_eq_ite] at hstep
    refine ⟨fun l' r' hchild => ?_, fun hchild => ?_, fun x hx hchild => ⟨fun hpw => ?_, fun hfw => ?_⟩⟩
    all_goals rw [hchild] at hstep
    · exact congrArg endCommand hstep
    · exact congrArg endCommand (hstep.trans (settleLeaf_eos _))
    all_goals
      have hsecond : s.portDraws.tail.head? = s.portDraws[1]? := List.head?_eq_getElem?.trans List.getElem?_tail
      have hdrop : s.portDraws.tail.tail = s.portDraws.drop 2 := by
        rw [← List.drop_one, ← List.drop_one, List.drop_drop]
      rw [← hdrop]
    · exact congrArg endCommand (hstep.trans (settleLeaf_passing hx (hsecond ▸ hpw)))
    · exact congrArg endCommand (hstep.trans (settleLeaf_failing hx (hsecond.trans hfw)))

end Sys2Proof.Machine
end

section
/-! PROOF. The decoder's loops (R232, R233): along the bits that lead from DPATH to an internal node both go round once
for each bit, and the bit that leads to a leaf has it settled; with this DEC_SYM. -/

namespace Sys2Proof.Machine

/-! ### The decoder part way down a code -/

/-- The state after the bits `c` have led the decoder from one internal node to another (R230). -/
def descended (c : Bits) (s : State) : State :=
  { s with
    dstate := if c = [] then s.dstate else .midPath
    dpath := s.dpath ++ c
    result := if c = [] then s.result else 0
    inPos := s.inPos + c.length
    portDraws := s.portDraws.drop c.length }

@[simp] theorem descended_nil (s : State) : descended [] s = s := by simp [descended]

/-- One bit more: a read, and the decoder stands mid-path one bit further down. -/
theorem descended_append_singleton (c : Bits) (b : Bool) (s : State) :
    descended (c ++ [b]) s = { afterRead 1 (descended c s) with
      dstate := .midPath, dpath := (descended c s).dpath ++ [b], result := 0 } := by
  simp [descended, afterRead, Nat.add_assoc]

theorem bitsAhead_descended {c rest : Bits} {s : State} (h : bitsAhead s = c ++ rest) :
    bitsAhead (descended c s) = rest := drop_inPos_add h rfl

/-- What the bit after `c` leads to is arrived at with `c` and that bit read. -/
theorem arriveAt_descended (n : Tree) (c : Bits) (b : Bool) (s : State) :
    arriveAt n { afterRead 1 (descended c s) with dpath := (descended c s).dpath ++ [b] } =
      arriveAt n (descended (c ++ [b]) s) := by
  rw [descended_append_singleton]
  cases n <;> rfl

theorem arriveAt_node_descended (l r : Tree) (c : Bits) (b : Bool) (s : State) :
    arriveAt (.node l r) (descended (c ++ [b]) s) = .done () (descended (c ++ [b]) s) := by
  rw [descended_append_singleton]
  rfl

/-- A node with something below it is internal (R108). -/
theorem exists_node_of_subtree_append_cons {t n : Tree} {p d : Bits} {b : Bool}
    (h : subtree t (p ++ b :: d) = some n) : ∃ l r, subtree t p = some (.node l r) := by
  rw [subtree_append] at h
  obtain ⟨m, hm, hn⟩ := Option.bind_eq_some_iff.mp h
  cases m with
  | leaf x => simp at hn
  | node l r => exact ⟨l, r, hm⟩

/-- The step that reads the bit after `c` arrives at the node that bit leads to. -/
theorem decStep_descended {t n : Tree} {c rest : Bits} {b : Bool} {s : State} (ht : s.tree = some t)
    (hn : subtree t (s.dpath ++ (c ++ [b])) = some n) (hb : bitsAhead s = c ++ b :: rest)
    (hp : PortsPass (c.length + 1) s.portDraws) :
    decStep (descended c s) = arriveAt n (descended (c ++ [b]) s) := by
  rw [← List.append_assoc] at hn
  obtain ⟨l, r, hnode⟩ := exists_node_of_subtree_append_cons hn
  rw [subtree_append, hnode, Option.bind_some, subtree_node_cons, subtree_nil] at hn
  obtain rfl := Option.some.inj hn
  have hat : NodeAt (descended c s) (.node l r) := ⟨t, ht, hnode⟩
  rw [decStep_bit hat (PortsPass.head hp.drop) (bitsAhead_descended hb), arriveAt_descended]

/-! ### The loops -/

/-- One turn of DEC_SYM's or DEC_PASS's loop: a step, and whether to go round again. -/
def decTurn (again : State → Bool) (s : State) : Run Bool := (decStep s).andThen fun _ t => .done (again t) t

theorem decSymTurn_eq : decSymTurn = decTurn fun t => !t.result.getLsbD 16 := rfl

theorem decPassTurn_eq : decPassTurn = decTurn fun t => t.dstate != .done := rfl

theorem repeatWhile_decTurn_succ (again : State → Bool) (n : Nat) (s : State) :
    repeatWhile (n + 1) (decTurn again) s =
      (decStep s).andThen fun _ t => if again t then repeatWhile n (decTurn again) t else .done () t := by
  rw [repeatWhile_succ, decTurn, Run.andThen_assoc]
  rfl

section Loops

variable {again : State → Bool} {t : Tree} {c rest : Bits} {s : State}

/-- A loop that goes round again mid-path reads the bits that lead to an internal node. -/
theorem decLoop_descends {l r : Tree} (hagain : ∀ u : State, u.dstate = .midPath → u.result = 0 → again u = true)
    (ht : s.tree = some t) (hn : subtree t (s.dpath ++ c) = some (.node l r)) (hb : bitsAhead s = c ++ rest)
    (hp : PortsPass c.length s.portDraws) (n : Nat) :
    repeatWhile (c.length + n) (decTurn again) s = repeatWhile n (decTurn again) (descended c s) := by
  induction c using List.reverseRecOn generalizing l r rest n with
  | nil => simp
  | append_singleton c b ih =>
    rw [List.append_assoc] at hb
    rw [List.length_append] at hp
    obtain ⟨l', r', hn'⟩ := exists_node_of_subtree_append_cons (by rwa [← List.append_assoc] at hn)
    have hgo : again (descended (c ++ [b]) s) = true :=
      hagain _ (by simp [descended]) (by simp [descended])
    rw [List.length_append, Nat.add_assoc, ih hn' hb (hp.mono (Nat.le_add_right _ _)), List.length_singleton,
      Nat.add_comm 1 n, repeatWhile_decTurn_succ, decStep_descended ht hn hb hp, arriveAt_node_descended,
      Run.andThen_done, if_pos hgo]

/-- The bits that lead to a leaf take one turn each, and in the last the leaf is settled. -/
theorem decLoop_reaches {x : Symbol} (hagain : ∀ u : State, u.dstate = .midPath → u.result = 0 → again u = true)
    (ht : s.tree = some t) (hc : c ≠ []) (hn : subtree t (s.dpath ++ c) = some (.leaf x))
    (hb : bitsAhead s = c ++ rest) (hp : PortsPass c.length s.portDraws) (n : Nat) :
    repeatWhile (c.length + n) (decTurn again) s =
      (settleLeaf x (descended c s)).andThen fun _ u =>
        if again u then repeatWhile n (decTurn again) u else .done () u := by
  obtain rfl | ⟨c, b, rfl⟩ := List.eq_nil_or_concat' c
  · exact absurd rfl hc
  rw [List.append_assoc] at hb
  rw [List.length_append] at hp
  obtain ⟨l, r, hn'⟩ := exists_node_of_subtree_append_cons (by rwa [← List.append_assoc] at hn)
  rw [List.length_append, Nat.add_assoc, decLoop_descends hagain ht hn' hb (hp.mono (Nat.le_add_right _ _)),
    List.length_singleton, Nat.add_comm 1 n, repeatWhile_decTurn_succ, decStep_descended ht hn hb hp]
  rfl

end Loops

/-! ### DEC_SYM -/

/-- What a settled leaf leaves changed (R230). -/
theorem settleLeaf_eq_done {x : Symbol} {s u : State} (h : settleLeaf x s = .done () u) :
    u = { s with
      dpath := [], dstate := if x = Config.eos then .done else .atRoot, result := leafResult x
      outBits := u.outBits, portDraws := u.portDraws } := by
  obtain rfl | hx := eq_or_ne x Config.eos
  · cases (if_pos rfl : settleLeaf Config.eos s = _).symm.trans h
    rfl
  · rw [settleLeaf, if_neg hx] at h
    obtain ⟨hw, -⟩ | ⟨hw, -⟩ := writeField_cases (symbolByte x)
      { s with dpath := [], dstate := .atRoot, result := leafResult x } <;> cases hw.symm.trans h
    rw [if_neg hx]

theorem decSymBody_of_armed {s : State} (h : s.dstate = .atRoot ∨ s.dstate = .midPath) :
    decSymBody s = repeatWhile (bitsLeft s + 1) decSymTurn s := by
  rw [decSymBody, requireArmed_of_armed h, Run.andThen_done]

theorem decSym_again {u : State} (_ : u.dstate = .midPath) (h : u.result = 0) : (!u.result.getLsbD 16) = true := by
  simp [h]

/-- RESULT[16] ends DEC_SYM's loop at any leaf. -/
theorem settleLeaf_ends_decSym (x : Symbol) (s : State) (f : State → Run Unit) :
    ((settleLeaf x s).andThen fun _ u => if !u.result.getLsbD 16 then f u else .done () u) = settleLeaf x s := by
  cases h : settleLeaf x s with
  | done a u =>
    have hresult : u.result = leafResult x := by rw [settleLeaf_eq_done h]
    simp [hresult]
  | raised e u => rfl
  | stuck f => rfl

theorem decSymBody_leaf {x : Symbol} {s : State} (harm : s.dstate = .atRoot ∨ s.dstate = .midPath)
    (h : NodeAt s (.leaf x)) : decSymBody s = settleLeaf x s := by
  rw [decSymBody_of_armed harm, decSymTurn_eq, repeatWhile_decTurn_succ, decStep_leaf h]
  exact settleLeaf_ends_decSym x s _

section DecSym

variable {t : Tree} {c rest : Bits} {s : State}

/-- The bound of R105 leaves a turn for each bit ahead after `c`, and one more. -/
theorem bitsLeft_succ_of_bitsAhead (h : bitsAhead s = c ++ rest) : bitsLeft s + 1 = c.length + (rest.length + 1) := by
  rw [bitsLeft, ← List.length_drop, show s.inBits.drop s.inPos = c ++ rest from h, List.length_append, Nat.add_assoc]

/-- DEC_SYM past the bits to an internal node takes the step there next. -/
theorem decSymBody_descends {l r : Tree} (harm : s.dstate = .atRoot ∨ s.dstate = .midPath) (ht : s.tree = some t)
    (hn : subtree t (s.dpath ++ c) = some (.node l r)) (hb : bitsAhead s = c ++ rest)
    (hp : PortsPass c.length s.portDraws) :
    decSymBody s = (decStep (descended c s)).andThen fun _ u =>
      if !u.result.getLsbD 16 then repeatWhile rest.length decSymTurn u else .done () u := by
  rw [decSymBody_of_armed harm, bitsLeft_succ_of_bitsAhead hb, decSymTurn_eq,
    decLoop_descends (fun _ => decSym_again) ht hn hb hp, repeatWhile_decTurn_succ]

/-- DEC_SYM reads exactly the bits that lead to a leaf and settles it (R232). -/
theorem decSymBody_reaches {x : Symbol} (harm : s.dstate = .atRoot ∨ s.dstate = .midPath) (ht : s.tree = some t)
    (hc : c ≠ []) (hn : subtree t (s.dpath ++ c) = some (.leaf x)) (hb : bitsAhead s = c ++ rest)
    (hp : PortsPass c.length s.portDraws) : decSymBody s = settleLeaf x (descended c s) := by
  rw [decSymBody_of_armed harm, bitsLeft_succ_of_bitsAhead hb, decSymTurn_eq,
    decLoop_reaches (fun _ => decSym_again) ht hc hn hb hp]
  exact settleLeaf_ends_decSym x _ _

end DecSym

/-- Settles O46: the loop reads the bits to the leaf or to the node where it stops, and then takes the leaf's or the
node's step. -/
theorem decSymReachesTheLeaf : Obligations.DecSymReachesTheLeaf := by
  refine ⟨fun s t c rest x harm ht hn hc hsub hb => ?_, fun s harm hpath ht => ?_,
    fun s t l r c rest harm ht hsub hb hp => ?_, fun s t c rest x harm ht hc hsub hx hb hp hf => ?_⟩
  · have hbody := decSymBody_reaches harm ht hc hsub hb (hn.portsPass _)
    obtain rfl | hx := eq_or_ne x Config.eos
    · exact ⟨_, congrArg endCommand (hbody.trans (settleLeaf_eos _)), fun _ => rfl, fun hx => absurd rfl hx⟩
    · have hwrite : NoPortFailure (descended c s) := hn.drop rfl
      exact ⟨_, congrArg endCommand (hbody.trans (settleLeaf_passing hx (hwrite.portsPass 1).head)),
        fun he => absurd he hx, fun _ => rfl⟩
  · have hleaf : NodeAt s (.leaf Config.eos) := ⟨_, ht, hpath ▸ subtree_nil _⟩
    have hend := congrArg endCommand ((decSymBody_leaf (.inl harm) hleaf).trans (settleLeaf_eos s))
    rw [← hpath] at hend
    exact hend
  · have hbody := decSymBody_descends harm ht hsub hb hp
    have hnode : NodeAt (descended c s) (.node l r) := ⟨t, ht, hsub⟩
    have hhead : (descended c s).portDraws.head? = s.portDraws[c.length]? := List.head?_drop
    rintro u rfl
    rw [← List.tail_drop]
    refine ⟨fun hf => ?_, fun hpass hrest => ?_⟩
    · rw [decStep_failing hnode (hhead.trans hf)] at hbody
      exact congrArg endCommand hbody
    · have hshort : (descended c s).inBits.length ≤ (descended c s).inPos :=
        List.drop_eq_nil_iff.mp ((bitsAhead_descended hb).trans hrest)
      rw [decStep_short hnode (hhead ▸ hpass) hshort] at hbody
      exact congrArg endCommand hbody
  · have hhead : (descended c s).portDraws.head? = some true := List.head?_drop.trans hf
    rw [← List.tail_drop]
    exact congrArg endCommand ((decSymBody_reaches harm ht hc hsub hb hp).trans (settleLeaf_failing hx hhead))

end Sys2Proof.Machine
end

section
/-! PROOF. BUSY is no input of the decoder: a run from a state with BUSY = 0 is the run from the state as it was, with
BUSY = 0 where it ends (R26, R102). So a command that follows another does what it would have done in one go. -/

namespace Sys2Proof.Machine

/-- A run with the state it ends in changed. -/
def Run.mapState {α : Type} (g : State → State) : Run α → Run α
  | .done a s => .done a (g s)
  | .raised e s => .raised e (g s)
  | .stuck f => .stuck f

/-- A part of a rule that does not see BUSY. -/
def IgnoresBusy {α : Type} (f : State → Run α) : Prop := ∀ s : State, f s.finish = (f s).mapState State.finish

/-- How a command's rule ends its command overwrites BUSY. -/
theorem IgnoresBusy.endCommand_finish {f : State → Run Unit} (h : IgnoresBusy f) (s : State) :
    endCommand (f s.finish) = endCommand (f s) := by
  rw [h s]
  cases f s <;> rfl

theorem IgnoresBusy.andThen {α β : Type} {f : State → Run α} {g : α → State → Run β} (hf : IgnoresBusy f)
    (hg : ∀ a, IgnoresBusy (g a)) : IgnoresBusy fun s => (f s).andThen g := by
  intro s
  simp only [hf s]
  cases f s with
  | done a t => exact hg a t
  | raised e t => rfl
  | stuck x => rfl

theorem IgnoresBusy.repeatWhile {f : State → Run Bool} (hf : IgnoresBusy f) (n : Nat) :
    IgnoresBusy (repeatWhile n f) := by
  induction n with
  | zero => exact fun _ => rfl
  | succ n ih =>
    refine hf.andThen fun again => ?_
    cases again with
    | true => exact ih
    | false => exact fun _ => rfl

/-! ### The port operations and the decoder's parts -/

theorem readOrRaise_ignoresBusy (n : Nat) (e : ErrorKind) : IgnoresBusy (readOrRaise n e) := by
  intro s
  by_cases hf : s.portDraws.head? = some true
  · rw [readOrRaise_failing hf, readOrRaise_failing (s := s.finish) hf]
    rfl
  by_cases hn : s.inBits.length < s.inPos + n
  · rw [readOrRaise_short hf hn, readOrRaise_short (s := s.finish) hf hn]
    rfl
  · rw [readOrRaise, readOrRaise, readOrBreak, readOrBreak, portRead_data hf (Nat.le_of_not_lt hn),
      portRead_data (s := s.finish) hf (Nat.le_of_not_lt hn)]
    rfl

theorem writeField_ignoresBusy {n : Nat} (v : BitVec n) : IgnoresBusy (writeField v) := by
  intro s
  by_cases hf : s.portDraws.head? = some true
  · rw [writeField_failing v hf, writeField_failing (s := s.finish) v hf]
    rfl
  · rw [writeField_passing v hf, writeField_passing (s := s.finish) v hf]
    rfl

theorem requireArmed_ignoresBusy : IgnoresBusy requireArmed := by
  intro s
  rw [requireArmed, requireArmed, State.finish_dstate]
  cases s.dstate <;> rfl

theorem currentNode_ignoresBusy : IgnoresBusy currentNode := by
  intro s
  rw [currentNode, currentNode, State.finish_tree, State.finish_dpath]
  cases s.tree with
  | none => rfl
  | some t => cases h : subtree t s.dpath <;> simp [h, Run.mapState]

theorem settleLeaf_ignoresBusy (x : Symbol) : IgnoresBusy (settleLeaf x) := by
  intro s
  rw [settleLeaf, settleLeaf]
  split
  · rfl
  · exact writeField_ignoresBusy _ { s with dpath := [], dstate := .atRoot, result := leafResult x }

theorem arriveAt_ignoresBusy (n : Tree) : IgnoresBusy (arriveAt n) := by
  cases n with
  | leaf x => exact settleLeaf_ignoresBusy x
  | node l r => exact fun _ => rfl

theorem decStep_ignoresBusy : IgnoresBusy decStep := by
  refine currentNode_ignoresBusy.andThen fun n => ?_
  cases n with
  | leaf x => exact settleLeaf_ignoresBusy x
  | node l r =>
    exact (readOrRaise_ignoresBusy 1 _).andThen fun b u =>
      (currentNode_ignoresBusy.andThen arriveAt_ignoresBusy) { u with dpath := u.dpath ++ [b == 1] }

theorem decPassTurn_ignoresBusy : IgnoresBusy decPassTurn := decStep_ignoresBusy.andThen fun _ _ => rfl

theorem decPassBody_ignoresBusy : IgnoresBusy decPassBody :=
  requireArmed_ignoresBusy.andThen fun _ s => decPassTurn_ignoresBusy.repeatWhile (bitsLeft s + 1) s

end Sys2Proof.Machine
end

section
/-! PROOF. DEC_PASS (R233): it is DEC_SYM repeated (R228), because both loops take the same steps and a step at an
internal node reads one bit, so the bound of R105 that is left after a leaf is the one DEC_PASS starts from there; and
over the body of some bytes it writes those bytes (R234). -/

namespace Sys2Proof.Machine

/-! ### DEC_PASS as DEC_SYM repeated -/

/-- What a step at an internal node leaves: one bit fewer ahead, and an internal node mid-path or a settled leaf. -/
theorem decStep_node_eq_done {s u : State} {l r : Tree} (h : NodeAt s (.node l r)) (hu : decStep s = .done () u) :
    bitsLeft s = bitsLeft u + 1 ∧
      ((u.dstate = .midPath ∧ u.result = 0 ∧ ∃ l' r', NodeAt u (.node l' r')) ∨
       (u.result[16] = true ∧ (u.dstate = .atRoot ∨ u.dstate = .done))) := by
  have hp : s.portDraws.head? ≠ some true := fun hf => by
    cases (decStep_failing h hf).symm.trans hu
  have hlt : s.inPos < s.inBits.length := lt_of_not_ge fun hn => by
    cases (decStep_short h hp hn).symm.trans hu
  have hleft : bitsLeft s = bitsLeft (afterRead 1 s) + 1 := by
    simp only [bitsLeft, afterRead]
    omega
  rw [decStep_bit h hp (List.drop_eq_getElem_cons hlt)] at hu
  have hchild : NodeAt { afterRead 1 s with dpath := s.dpath ++ [s.inBits[s.inPos]] }
      (bif s.inBits[s.inPos] then r else l) := h.child rfl rfl
  cases hn : (bif s.inBits[s.inPos] then r else l) with
  | leaf x =>
    rw [hn] at hu
    rw [settleLeaf_eq_done hu]
    refine ⟨hleft, .inr ⟨getElem_leafResult x, ?_⟩⟩
    by_cases hx : x = Config.eos <;> simp [hx]
  | node l' r' =>
    rw [hn] at hu hchild
    cases hu
    exact ⟨hleft, .inl ⟨rfl, rfl, l', r', hchild⟩⟩

theorem decPassBody_of_armed {s : State} (h : s.dstate = .atRoot ∨ s.dstate = .midPath) :
    decPassBody s = repeatWhile (bitsLeft s + 1) decPassTurn s := by
  rw [decPassBody, requireArmed_of_armed h, Run.andThen_done]

/-- What DEC_PASS does where a DEC_SYM has ended (R228). -/
def decPassOn (s : State) : Run Unit := if s.dstate = .done then .done () s else decPassBody s

/-- DEC_PASS's loop at an internal node is DEC_SYM's loop, then DEC_PASS from there on. -/
theorem decPassLoop_eq_decSymLoop {s : State} {l r : Tree} (h : NodeAt s (.node l r)) :
    repeatWhile (bitsLeft s + 1) decPassTurn s =
      (repeatWhile (bitsLeft s + 1) decSymTurn s).andThen fun _ u => decPassOn u := by
  induction hk : bitsLeft s using Nat.strong_induction_on generalizing s l r with
  | _ k ih =>
    subst hk
    rw [decPassTurn_eq, decSymTurn_eq, repeatWhile_decTurn_succ, repeatWhile_decTurn_succ, Run.andThen_assoc]
    cases hu : decStep s with
    | raised e u => rfl
    | stuck x => rfl
    | done _ u =>
      obtain ⟨hleft, ⟨hd, hr, l', r', hn⟩ | ⟨hr, hd | hd⟩⟩ := decStep_node_eq_done h hu
      · have hrest := ih (bitsLeft u) (by omega) hn rfl
        rw [decPassTurn_eq, decSymTurn_eq] at hrest
        simpa [hd, hr, hleft] using hrest
      · simp [hd, hr, hleft, decPassOn, decPassBody_of_armed (.inl hd), decPassTurn_eq]
      · simp [hd, hr, decPassOn]

/-- An armed decoder stands at an internal node, or at the root that is the sentinel's leaf (R39, R44). -/
theorem Inv.nodeAt {s : State} (hi : Inv s) (harm : s.dstate = .atRoot ∨ s.dstate = .midPath) :
    (∃ l r, NodeAt s (.node l r)) ∨ NodeAt s (.leaf Config.eos) := by
  obtain hroot | hmid := harm
  · have hpath : s.dpath = [] := hi.pathEmpty (by simp [hroot])
    cases ht : s.tree with
    | none =>
      have hunarmed := hi.unarmedIffNoTree.mpr (by simp [State.treeValid, ht])
      cases hroot.symm.trans hunarmed
    | some t =>
      have hat : NodeAt s t := ⟨t, ht, hpath ▸ subtree_nil t⟩
      cases t with
      | leaf x =>
        obtain ⟨-, hx⟩ := legalTree_iff.mp (hi.treeLegal _ ht)
        obtain rfl : x = Config.eos := beq_iff_eq.mp hx
        exact .inr hat
      | node l r => exact .inl ⟨l, r, hat⟩
  · obtain ⟨t, l, r, ht, hn⟩ := hi.pathInternal hmid
    exact .inl ⟨l, r, t, ht, hn⟩

/-- DEC_PASS is a DEC_SYM, then DEC_PASS from there on (R228). -/
theorem decPassBody_eq_decSymBody {s : State} (hi : Inv s) (harm : s.dstate = .atRoot ∨ s.dstate = .midPath) :
    decPassBody s = (decSymBody s).andThen fun _ u => decPassOn u := by
  obtain ⟨l, r, h⟩ | h := hi.nodeAt harm
  · rw [decPassBody_of_armed harm, decSymBody_of_armed harm, decPassLoop_eq_decSymLoop h]
  · rw [decPassBody_of_armed harm, decPassTurn_eq, repeatWhile_decTurn_succ, decStep_leaf h, decSymBody_leaf harm h,
      settleLeaf_eos]
    rfl

/-- An armed decoder goes on from where DEC_SYM ended, whose `BUSY <- 0` DEC_PASS does not see (R228). -/
theorem exec_decPass_of_armed {s u : State} (hi : Inv s) (herr : s.err = false)
    (harm : s.dstate = .atRoot ∨ s.dstate = .midPath) (hsym : exec .decSym s = .next u) :
    exec .decPass s = if passOver u then .next u else exec .decPass u := by
  have hpass : exec .decPass s = endCommand ((decSymBody s).andThen fun _ v => decPassOn v) :=
    congrArg endCommand (decPassBody_eq_decSymBody hi harm)
  have hwrites := decSymBody_writes s
  obtain ⟨v, hv, rfl⟩ | ⟨e, v, hv, rfl⟩ := endCommand_eq_next.mp hsym
  all_goals
    replace hv : decSymBody s = _ := hv
    rw [hv] at hpass hwrites
  · obtain ⟨hverr, -⟩ := Writes.err_cmdDropped hwrites
    by_cases hd : v.dstate = .done
    · simpa [decPassOn, passOver, hd] using hpass
    · have hover : passOver v.finish = false := by simp [passOver, hverr, herr, hd]
      rw [hpass, hover, Run.andThen_done, decPassOn, if_neg hd]
      exact (decPassBody_ignoresBusy.endCommand_finish v).symm
  · exact hpass

/-- A decoder that is not armed ends DEC_SYM and DEC_PASS in the same error (R231). -/
theorem exec_decPass_of_requireArmed_raised {s u : State} {e : ErrorKind} (h : requireArmed s = .raised e s)
    (hsym : exec .decSym s = .next u) :
    exec .decPass s = if passOver u then .next u else exec .decPass u := by
  cases hsym.symm.trans (exec_of_requireArmed_raised (by simp) h)
  exact exec_of_requireArmed_raised (by simp) h

/-- Settles O47, by the decoder's four states. -/
theorem decPassIsDecSymRepeated : Obligations.DecPassIsDecSymRepeated := by
  intro s u hi herr hsym
  cases hd : s.dstate with
  | unarmed => exact exec_decPass_of_requireArmed_raised (requireArmed_of_unarmed hd) hsym
  | atRoot => exact exec_decPass_of_armed hi herr (.inl hd) hsym
  | midPath => exact exec_decPass_of_armed hi herr (.inr hd) hsym
  | done => exact exec_decPass_of_requireArmed_raised (requireArmed_of_done hd) hsym

/-! ### DEC_PASS over a body -/

/-- The state after DEC_PASS has read the body of the bytes `B` and written them (R234): a port operation for each bit
and for each byte. -/
def bodyDecoded (B : List Byte) (body : Bits) (s : State) : State :=
  { s with
    dstate := .done
    dpath := []
    result := 0x00030100
    inPos := s.inPos + body.length
    outBits := s.outBits ++ bytesToBits B
    portDraws := s.portDraws.drop (body.length + B.length) }

/-- The byte of a byte's symbol is that byte (R13, R225). -/
theorem symbolByte_byteSymbol (b : Byte) : symbolByte (byteSymbol b) = b := by
  simp [symbolByte, byteSymbol]

/-- The body of some bytes begins with the code of the first (R211). -/
theorem bodyOf_cons_eq_some_iff {table : Vector (Option Bits) 257} {b : Byte} {B : List Byte} {body : Bits} :
    bodyOf table (b :: B) = some body ↔
      ∃ p q, table[byteSymbol b] = some p ∧ bodyOf table B = some q ∧ p ++ q = body := by
  rw [bodyOf]
  cases table[byteSymbol b] <;> cases bodyOf table B <;> simp

theorem decPass_again {u : State} (h : u.dstate = .midPath) (_ : u.result = 0) : (u.dstate != .done) = true := by
  simp [h]

section Body

variable {t : Tree} {s : State}

/-- DEC_PASS's loop at the root over the sentinel's code ends. -/
theorem decPassLoop_eos {p rest : Bits} (ht : s.tree = some t) (hpath : s.dpath = []) (hn : NoPortFailure s)
    (hp : subtree t p = some (.leaf Config.eos)) (hb : bitsAhead s = p ++ rest) (n : Nat) :
    repeatWhile (p.length + (n + 1)) decPassTurn s = .done () (bodyDecoded [] p s) := by
  rw [decPassTurn_eq]
  obtain rfl | hne := eq_or_ne p []
  · have hleaf : NodeAt s (.leaf Config.eos) := ⟨t, ht, hpath ▸ hp⟩
    rw [List.length_nil, Nat.zero_add, repeatWhile_decTurn_succ, decStep_leaf hleaf, settleLeaf_eos]
    simp [bodyDecoded, bytesToBits]
  · rw [decLoop_reaches (fun _ => decPass_again) ht hne (by rwa [hpath]) hb (hn.portsPass _), settleLeaf_eos]
    simp [bodyDecoded, descended, bytesToBits]

/-- The state after a byte was decoded from the code `p`. -/
def byteDecoded (b : Byte) (p : Bits) (s : State) : State :=
  { s with
    dstate := .atRoot
    dpath := []
    result := leafResult (byteSymbol b)
    inPos := s.inPos + p.length
    outBits := s.outBits ++ bitsOf b
    portDraws := s.portDraws.drop (p.length + 1) }

/-- DEC_PASS's loop at the root over a byte's code writes the byte and is at the root again. -/
theorem decPassLoop_byte {b : Byte} {p rest : Bits} (ht : s.tree = some t) (hpath : s.dpath = [])
    (hn : NoPortFailure s) (hne : p ≠ []) (hp : subtree t p = some (.leaf (byteSymbol b)))
    (hb : bitsAhead s = p ++ rest) (n : Nat) :
    repeatWhile (p.length + n) decPassTurn s = repeatWhile n decPassTurn (byteDecoded b p s) := by
  have hwrite : NoPortFailure (descended p s) := hn.drop rfl
  have hx := byteSymbol_ne_eos b
  rw [decPassTurn_eq, decLoop_reaches (fun _ => decPass_again) ht hne (by rwa [hpath]) hb (hn.portsPass _),
    settleLeaf_passing hx (hwrite.portsPass 1).head, symbolByte_byteSymbol, ← leafResult_byte hx]
  simp [byteDecoded, descended]

theorem bodyDecoded_byteDecoded (b : Byte) (B : List Byte) (p q : Bits) (s : State) :
    bodyDecoded B q (byteDecoded b p s) = bodyDecoded (b :: B) (p ++ q) s := by
  have hops : p.length + 1 + (q.length + B.length) = p.length + q.length + (B.length + 1) := by omega
  simp [bodyDecoded, byteDecoded, bytesToBits_cons, Nat.add_assoc, hops]

/-- No byte has an empty code: the root is no byte's leaf (R39). -/
theorem code_ne_nil_of_legalTree {b : Byte} {p : Bits} (hl : legalTree t = true)
    (hp : subtree t p = some (.leaf (byteSymbol b))) : p ≠ [] := by
  rintro rfl
  obtain rfl := Option.some.inj ((subtree_nil t).symm.trans hp)
  obtain ⟨-, hroot⟩ := legalTree_iff.mp hl
  exact byteSymbol_ne_eos b (beq_iff_eq.mp hroot)

/-- DEC_PASS's loop at the root over the body of `B` writes `B` and ends at the sentinel (R234). -/
theorem decPassLoop_body {B : List Byte} {body rest : Bits} (hl : legalTree t = true)
    (hbody : bodyOf (codesOf t) B = some body) (ht : s.tree = some t) (hpath : s.dpath = []) (hn : NoPortFailure s)
    (hb : bitsAhead s = body ++ rest) (n : Nat) :
    repeatWhile (body.length + (n + 1)) decPassTurn s = .done () (bodyDecoded B body s) := by
  induction B generalizing body s with
  | nil => exact decPassLoop_eos ht hpath hn (subtree_of_lastPath ((getElem_codesOf t _).symm.trans hbody)) hb n
  | cons b B ih =>
    obtain ⟨p, q, hp, hq, rfl⟩ := bodyOf_cons_eq_some_iff.mp hbody
    have hsub := subtree_of_lastPath ((getElem_codesOf t _).symm.trans hp)
    rw [List.append_assoc] at hb
    have hrest : bitsAhead (byteDecoded b p s) = q ++ rest := drop_inPos_add hb rfl
    rw [List.length_append, Nat.add_assoc, decPassLoop_byte ht hpath hn (code_ne_nil_of_legalTree hl hsub) hsub hb,
      ih (s := byteDecoded b p s) hq ht rfl (hn.drop rfl) hrest, bodyDecoded_byteDecoded]

end Body

/-- Settles O48. Distinct leaves are not needed: a code is a path to a leaf of its symbol in any tree. -/
theorem decodingInvertsEncoding : Obligations.DecodingInvertsEncoding := by
  intro t B body rest s _ hl hbody ht harm hpath hn hb
  have hloop := decPassLoop_body hl hbody ht hpath hn hb rest.length
  rw [← bitsLeft_succ_of_bitsAhead hb, ← decPassBody_of_armed (.inl harm)] at hloop
  exact ⟨_, congrArg endCommand hloop, rfl⟩

end Sys2Proof.Machine
end

section
/-! PROOF. The control commands NOP, SRESET, CLRERR and IN_RESET (R250 to R253): their words, each with its whole next
state, and their acceptance in the error state (R100). -/

namespace Sys2Proof.Machine

/-! ### Acceptance in the error state -/

theorem offerCommand_busy {s : State} (hb : s.busy = true) (w : Word) :
    offerCommand w s = { s with cmdDropped := true } := by
  simp [offerCommand, hb]

/-- SRESET and CLRERR are accepted whatever ERR is (R100). -/
theorem offerCommand_passing {s : State} {w : Word} (hb : s.busy = false) (hw : passesInError w = true) :
    offerCommand w s = { s with pend := w, lastOp := w.extractLsb' 0 8, busy := true } := by
  simp [offerCommand, hb, hw]

/-- Any other word is dropped while ERR = 1 (R100). -/
theorem offerCommand_dropped_in_error {s : State} {w : Word} (hb : s.busy = false) (he : s.err = true)
    (hw : passesInError w = false) : offerCommand w s = { s with cmdDropped := true } := by
  simp [offerCommand, hb, he, hw]

/-! ### SRESET -/

/-- The reset input has nothing to abandon in an idle engine (R290). -/
theorem resetInput_idle {s : State} (hb : s.busy = false) (subOps portOps : Nat) :
    resetInput subOps portOps s = s.resetEngine := by
  simp [resetInput, hb]

/-- Settles O13: SRESET and the reset input of an idle engine are both `State.resetEngine`. -/
theorem sresetIsTheReset : Obligations.SresetIsTheReset := by
  refine ⟨by decide, fun s => ⟨rfl, fun k j rest hb hm => ?_, fun hb => offerCommand_passing hb rfl,
    fun hb => offerCommand_busy hb _, statusWord_resetEngine s, freqInitial_eos, decStateWord_resetEngine s⟩⟩
  rw [step_of_hostMoves hm]
  exact congrArg Host.Outcome.next (resetInput_idle (s := { s with hostMoves := rest }) hb k j)

/-! ### CLRERR -/

/-- With no tree and no valid code table, STATUS after CLRERR shows LAST_OP, the opcode of CLRERR, alone (R25, R252). -/
theorem statusWord_clearError {s : State} (hv : s.codesValid = false) (ht : s.tree.isSome = false) :
    statusWord (State.finish (State.clearError { s with lastOp := 2 })) = 0x00020000 := by
  have hstatus : statusWord (State.finish (State.clearError { s with lastOp := 2 })) =
      (0 : BitVec 8) ++ (2 : BitVec 8) ++ (0 : BitVec 4) ++ (0 : BitVec 4) ++ (0 : BitVec 3) ++
        BitVec.ofBool s.codesValid ++ BitVec.ofBool s.tree.isSome ++ BitVec.ofBool false ++ BitVec.ofBool false ++
        BitVec.ofBool false := rfl
  rw [hstatus, hv, ht]
  rfl

/-- Settles O15: the three bodies are single updates; a STATUS of 0x00430202 says that there is no tree and no valid
code table, so only LAST_OP is left once the error is cleared. -/
theorem controlCommandResults : Obligations.ControlCommandResults := by
  refine ⟨by decide, by decide, by decide, fun s => ⟨rfl, rfl, rfl,
    fun hb he => offerCommand_dropped_in_error hb he rfl, fun hb _ => offerCommand_passing hb rfl,
    fun hs => ⟨_, rfl, ?_⟩⟩⟩
  obtain ⟨-, -, -, htree, hcodes, -⟩ := statusWordFields s
  rw [hs] at htree hcodes
  exact statusWord_clearError hcodes.symm htree.symm

end Sys2Proof.Machine
end

section
/-! PROOF. COMPRESS (R257, R260): its first four sub-operations build the tables of the input's bytes, the other five
write the file from them. -/

namespace Sys2Proof.Machine

theorem runSteps_cons_of_done {f : State → Run Unit} {s t : State} (h : f s = .done () t)
    (fs : List (State → Run Unit)) : runSteps (f :: fs) s = runSteps fs t := by
  rw [runSteps_cons, h, Run.andThen_done]

theorem runSteps_cons_of_raised {f : State → Run Unit} {s t : State} {e : ErrorKind} (h : f s = .raised e t)
    (fs : List (State → Run Unit)) : runSteps (f :: fs) s = .raised e t := by
  rw [runSteps_cons, h, Run.andThen_raised]

/-! ### The tree of the input's bytes -/

/-- In a tree with a leaf for each of some bytes and for the sentinel, the bytes have a body (R211). -/
theorem exists_bodyOf_codesOf {t : Tree} {B : List Byte} (heos : Config.eos ∈ treeLeaves t)
    (hB : ∀ b ∈ B, byteSymbol b ∈ treeLeaves t) : ∃ body, bodyOf (codesOf t) B = some body := by
  have hcode {x : Symbol} (hx : x ∈ treeLeaves t) : ∃ p, (codesOf t)[x] = some p := by
    rw [getElem_codesOf]
    exact Option.ne_none_iff_exists'.mp fun hnone => lastPath_eq_none_iff.mp hnone hx
  induction B with
  | nil => exact hcode heos
  | cons b B ih =>
    obtain ⟨p, hp⟩ := hcode (hB b (by simp))
    obtain ⟨q, hq⟩ := ih fun x hx => hB x (by simp [hx])
    exact ⟨p ++ q, bodyOf_cons_eq_some_iff.mpr ⟨p, q, hp, hq, rfl⟩⟩

theorem buildTree_distinctLeaves {freq : Vector Word 257} {t : Tree} (h : buildTree freq = some t) :
    DistinctLeaves t :=
  (buildTree_leaves h).nodup_iff.mpr (nodup_allSymbols.filter _)

/-- A symbol with a count has a leaf in the built tree (R151). -/
theorem mem_treeLeaves_of_buildTree {freq : Vector Word 257} {t : Tree} (h : buildTree freq = some t) {x : Symbol}
    (hx : freq[x] ≠ 0) : x ∈ treeLeaves t :=
  (buildTree_leaves h).mem_iff.mpr (List.mem_filter.mpr ⟨List.mem_finRange x, decide_eq_true hx⟩)

theorem frequencyOf_ne_zero {S : List Byte} (hc : ∀ b : Byte, S.count b < 2 ^ 32) {b : Byte} (hb : b ∈ S) :
    (frequencyOf S)[byteSymbol b] ≠ 0 := by
  intro hz
  have hcount := toNat_frequencyOf_byte (hc b)
  rw [hz] at hcount
  exact (List.count_pos_iff.mpr hb).ne hcount

/-- The tree built from the counts of some bytes gives those bytes a body (R151, R211). -/
theorem exists_bodyOf_buildTree {S : List Byte} {t : Tree} (hc : ∀ b : Byte, S.count b < 2 ^ 32)
    (h : buildTree (frequencyOf S) = some t) : ∃ body, bodyOf (codesOf t) S = some body :=
  exists_bodyOf_codesOf (mem_treeLeaves_of_buildTree h (counted_eos (frequencyOf_eos S)))
    fun _ hb => mem_treeLeaves_of_buildTree h (frequencyOf_ne_zero hc hb)

/-! ### The tables -/

/-- FREQ_SCAN over a whole stream of the bytes `S`, from FREQ_INIT's table (R135). -/
theorem freqScanBody_of_start {S : List Byte} {s : State} (hn : NoPortFailure s) (hb : s.inBits = bytesToBits S)
    (hpos : s.inPos = 0) (hf : s.freq = freqInitial) (hc : ∀ b : Byte, S.count b < 2 ^ 32) :
    freqScanBody s = .done () { s with
      freq := frequencyOf S, inPos := s.inBits.length, portDraws := s.portDraws.drop (S.length + 1) } := by
  have hahead : bytesAhead s = S := bytesAhead_of_start hb hpos
  have hfit : CountsFit (bytesAhead s) s := fun b => by
    rw [hahead, State.count, hf, freqInitial_byte (byteSymbol_ne_eos b)]
    simpa using hc b
  have hend : s.inBits.length = s.inPos + 8 * S.length := by simp [hb, hpos]
  rw [freqScanBody_done (fun j _ => hn.getElem?_ne j) hfit, ← length_bytesAhead, hahead, hend]
  simp [scanned, hf, countBytes_freqInitial]

/-- CODE_DERIVE under a tree (R180). -/
theorem codeDeriveBody_of_tree {s : State} {t : Tree} (ht : s.tree = some t) :
    codeDeriveBody s = .done () { s with code := codesOf t, codesValid := true } := by
  simp [codeDeriveBody, requireTree, ht]

/-- The state after COMPRESS has counted the bytes `S` and derived the codes of their tree (R257). -/
def tablesBuilt (S : List Byte) (tree : Tree) (s : State) : State :=
  { s with
    freq := frequencyOf S
    tree := some tree
    codesValid := true
    code := codesOf tree
    dstate := .atRoot
    dpath := []
    heap := (finalHeap (frequencyOf S)).map fun x => BitVec.ofNat 10 x.index
    inPos := s.inBits.length
    portDraws := s.portDraws.drop (S.length + 1) }

theorem runSteps_tables {S : List Byte} {tree : Tree} {s : State} (hn : NoPortFailure s)
    (hb : s.inBits = bytesToBits S) (hpos : s.inPos = 0) (hc : ∀ b : Byte, S.count b < 2 ^ 32)
    (htree : buildTree (frequencyOf S) = some tree) :
    runSteps [freqInitBody, freqScanBody, treeBuildBody, codeDeriveBody] s = .done () (tablesBuilt S tree s) := by
  have hscan := freqScanBody_of_start (s := { s with freq := freqInitial }) hn hb hpos rfl hc
  have hinit : freqInitBody s = .done () { s with freq := freqInitial } := rfl
  have hbuild := treeBuildBody_eq_done (s := { s with
    freq := frequencyOf S, inPos := s.inBits.length, portDraws := s.portDraws.drop (S.length + 1) }) htree
  rw [runSteps_cons_of_done hinit, runSteps_cons_of_done hscan, runSteps_cons_of_done hbuild, runSteps_singleton,
    codeDeriveBody_of_tree (t := tree) rfl]
  simp only [State.installTree, tablesBuilt]

/-! ### The file -/

/-- HDR_WRITE under a tree, no port operation failing (R201). -/
theorem hdrWriteBody_of_tree {s : State} {t : Tree} (ht : s.tree = some t) (hn : NoPortFailure s) :
    hdrWriteBody s = .done () (wrote (headerFields t) s) :=
  (hdrWriteBody_eq ht).trans (writeFields_passing (hn.portsPass _))

/-- ENC_PASS where the bytes ahead have a body, no port operation failing (R211). -/
theorem encPassBody_of_body {s : State} {S : List Byte} {body : Bits} (hv : s.codesValid = true)
    (hn : NoPortFailure s) (hahead : bytesAhead s = S) (hbody : bodyOf s.code S = some body) :
    encPassBody s = .done () (encoded S.length (S.length + 1 + body.length) body s) := by
  subst hahead
  obtain ⟨c, p, hc, hp, rfl⟩ := bodyOf_eq_some_iff.mp hbody
  have hops : (bytesAhead s).length + c.length + 1 + p.length = (bytesAhead s).length + 1 + (c ++ p).length := by
    rw [List.length_append]
    omega
  have hend := (encPassBody_eq_emit_eos hv hc (hn.portsPass _)).trans
    (emitSymbol_passing hp ((hn.drop rfl).portsPass _))
  rwa [encoded_encoded, hops] at hend

/-- The state after COMPRESS has written the tag and the header of `tree` and has rewound the input (R257). -/
def headWritten (tree : Tree) (s : State) : State := rewindInput (wrote (bitsOf s.magic :: headerFields tree) s)

theorem runSteps_head {tree : Tree} {s : State} (hn : NoPortFailure s) (ht : s.tree = some tree) :
    runSteps [magicWriteBody, hdrWriteBody, inResetBody] s = .done () (headWritten tree s) := by
  have hmagic : magicWriteBody s = .done () (wrote [bitsOf s.magic] s) := by
    rw [magicWriteBody_passing (hn.portsPass 1).head]
    simp [wrote]
  have hheader := hdrWriteBody_of_tree (s := wrote [bitsOf s.magic] s) ht (hn.drop rfl)
  rw [runSteps_cons_of_done hmagic, runSteps_cons_of_done hheader, ← wrote_cons]
  rfl

/-- The state after COMPRESS has written the body of the bytes `S` and the pad (R257). -/
def bodyWritten (S : List Byte) (body : Bits) (s : State) : State :=
  { s with
    inPos := s.inPos + 8 * S.length
    outBits := padToByte (s.outBits ++ body)
    portDraws := s.portDraws.drop (S.length + 1 + body.length + 1) }

theorem runSteps_body {S : List Byte} {body : Bits} {s : State} (hn : NoPortFailure s) (hv : s.codesValid = true)
    (hahead : bytesAhead s = S) (hbody : bodyOf s.code S = some body) :
    runSteps [encPassBody, flushOutput] s = .done () (bodyWritten S body s) := by
  have hflush : NoPortFailure (encoded S.length (S.length + 1 + body.length) body s) := hn.drop rfl
  rw [runSteps_cons_of_done (encPassBody_of_body hv hn hahead hbody),
    runSteps_cons_of_done (flushOutput_passing (hflush.portsPass 1).head)]
  simp [encoded, bodyWritten]

/-! ### COMPRESS -/

/-- Settles O50: the tables, then the head of the file, then the body and the pad. -/
theorem compressWritesTheFile : Obligations.CompressWritesTheFile := by
  intro s S hn hb hpos hout hc
  obtain ⟨tree, htree⟩ := buildTree_of_eos (frequencyOf_eos S)
  obtain ⟨body, hbody⟩ := exists_bodyOf_buildTree hc htree
  have htables : NoPortFailure (tablesBuilt S tree s) := hn.drop rfl
  have hhead : NoPortFailure (headWritten tree (tablesBuilt S tree s)) := htables.drop rfl
  have hsteps : runSteps compressSteps s =
      .done () (bodyWritten S body (headWritten tree (tablesBuilt S tree s))) := by
    have hparts : compressSteps = [freqInitBody, freqScanBody, treeBuildBody, codeDeriveBody] ++
      ([magicWriteBody, hdrWriteBody, inResetBody] ++ [encPassBody, flushOutput]) := rfl
    rw [hparts, runSteps_append, runSteps_tables hn hb hpos hc htree, Run.andThen_done, runSteps_append,
      runSteps_head htables rfl, Run.andThen_done, runSteps_body hhead rfl (bytesAhead_of_start hb rfl) hbody]
  refine ⟨_, tree, body, congrArg endCommand hsteps, htree, hbody, ?_, ?_⟩
  · change padToByte (s.outBits ++ (bitsOf s.magic :: headerFields tree).flatten ++ body) = _
    rw [hout, List.flatten_cons, flatten_headerFields]
    rfl
  · have hend : s.inBits.length = 0 + 8 * S.length := by simp [hb]
    simp only [State.finish, bodyWritten, headWritten, tablesBuilt, wrote, rewindInput, hend]

end Sys2Proof.Machine
end

section
/-! PROOF. DECOMPRESS (R258): its four sub-operations over a file, a tag that it refuses, and the round trip with
COMPRESS (R259). -/

namespace Sys2Proof.Machine

/-! ### The sub-operations -/

/-- MAGIC_READ where the next 32 bits are not the tag, too few bits ahead included (R204). -/
theorem magicReadBody_of_not_tag {s : State} (hp : s.portDraws.head? ≠ some true)
    (hne : (bitsAhead s).take 32 ≠ bitsOf s.magic) :
    ∃ n, magicReadBody s =
      .raised .unrecognizedFormat { s with portDraws := s.portDraws.tail, inPos := s.inPos + n } := by
  by_cases hlen : s.inBits.length < s.inPos + 32
  · refine ⟨0, ?_⟩
    rw [magicReadBody, readOrRaise_short hp hlen]
    rfl
  · obtain ⟨v, hv⟩ := exists_eq_bitsOf_append (n := 32) (c := bitsAhead s) (by simp; omega)
    have hvm : v ≠ s.magic := by
      rintro rfl
      exact hne ((congrArg (List.take 32) hv).trans (List.take_left' (length_bitsOf _)))
    exact ⟨32, magicReadBody_of_ne_tag hp hv hvm⟩

/-- HDR_READ over the header of a legal tree installs the tree (R207). -/
theorem hdrReadBody_of_header {t : Tree} {s : State} {rest : Bits} (ht : legalTree t = true) (hn : NoPortFailure s)
    (hb : bitsAhead s = serialize t ++ rest) :
    hdrReadBody s = .done () ((readPast t (startHeader s)).installTree t) := by
  obtain ⟨hsize, hroot⟩ := legalTree_iff.mp ht
  have hread := readNode_serialize (t := t) (fuel := Config.nodeCap + 1) (s := startHeader s) (Nat.le_add_right _ _)
    (by simpa using hsize) hb (hn.portsPass _)
  rw [hdrReadBody_of_done hread, if_pos hroot]

/-- DEC_PASS from the root over a body (R234). -/
theorem decPassBody_of_body {t : Tree} {B : List Byte} {body rest : Bits} {s : State} (hl : legalTree t = true)
    (hbody : bodyOf (codesOf t) B = some body) (ht : s.tree = some t) (harm : s.dstate = .atRoot) (hpath : s.dpath = [])
    (hn : NoPortFailure s) (hb : bitsAhead s = body ++ rest) :
    decPassBody s = .done () (bodyDecoded B body s) := by
  rw [decPassBody_of_armed (.inl harm), bitsLeft_succ_of_bitsAhead hb]
  exact decPassLoop_body hl hbody ht hpath hn hb rest.length

/-- Whole bytes need no pad (R65). -/
theorem padToByte_bytesToBits (B : List Byte) : padToByte (bytesToBits B) = bytesToBits B := by
  simp [padToByte, padLength]

/-! ### DECOMPRESS -/

/-- The state in which DECOMPRESS begins to decode: the tag and the header of `t` read, `t` installed (R258). -/
def headRead (t : Tree) (s : State) : State := (readPast t (startHeader (afterRead 32 s))).installTree t

theorem bitsAhead_headRead {t : Tree} {s : State} {rest : Bits}
    (hb : bitsAhead s = bitsOf s.magic ++ (serialize t ++ rest)) : bitsAhead (headRead t s) = rest :=
  bitsAhead_readPast (s := startHeader (afterRead 32 s)) (drop_inPos_add hb (length_bitsOf _))

theorem noPortFailure_headRead {s : State} (hn : NoPortFailure s) (t : Tree) : NoPortFailure (headRead t s) :=
  hn.drop (n := 1 + (headerFields t).length) (by rw [← List.drop_drop, List.drop_one]; rfl)

/-- DECOMPRESS up to the flush, over the tag, the header of `t` and the body of `S`. -/
theorem runSteps_decode {t : Tree} {S : List Byte} {body rest : Bits} {s : State} (hn : NoPortFailure s)
    (hl : legalTree t = true) (hbody : bodyOf (codesOf t) S = some body)
    (hb : bitsAhead s = bitsOf s.magic ++ (serialize t ++ (body ++ rest))) :
    runSteps [magicReadBody, hdrReadBody, decPassBody] s = .done () (bodyDecoded S body (headRead t s)) := by
  have htag : bitsAhead (afterRead 32 s) = serialize t ++ (body ++ rest) := drop_inPos_add hb (length_bitsOf _)
  have hafter : NoPortFailure (afterRead 32 s) := hn.drop List.drop_one.symm
  rw [runSteps_cons_of_done (magicReadBody_of_tag (hn.portsPass 1).head hb),
    runSteps_cons_of_done (hdrReadBody_of_header hl hafter htag), runSteps_singleton]
  exact decPassBody_of_body hl hbody rfl rfl rfl (noPortFailure_headRead hn t) (bitsAhead_headRead hb)

/-- Settles O51: the file's parts are read one after another, and the flush finds whole bytes; without the tag the first
sub-operation raises. Distinct leaves are not needed, as for DEC_PASS. -/
theorem decompressReadsTheFile : Obligations.DecompressReadsTheFile := by
  refine fun s hn => ⟨fun t S body rest _ hl hbody hout hb => ?_, fun hne => ?_⟩
  · have hflush : NoPortFailure (bodyDecoded S body (headRead t s)) := (noPortFailure_headRead hn t).drop rfl
    have hbits : (bodyDecoded S body (headRead t s)).outBits = bytesToBits S := by
      change s.outBits ++ bytesToBits S = _
      rw [hout, List.nil_append]
    have hsteps : runSteps decompressSteps s = flushOutput (bodyDecoded S body (headRead t s)) := by
      have hparts : decompressSteps = [magicReadBody, hdrReadBody, decPassBody] ++ [flushOutput] := rfl
      rw [hparts, runSteps_append, runSteps_decode hn hl hbody (by simpa using hb), Run.andThen_done,
        runSteps_singleton]
    rw [flushOutput_passing (hflush.portsPass 1).head, hbits, padToByte_bytesToBits] at hsteps
    have hend : s.inPos + (32 + (serialize t).length + body.length) =
        s.inPos + 32 + (serialize t).length + body.length := by omega
    exact ⟨_, congrArg endCommand hsteps, hend ▸ rfl⟩
  · obtain ⟨n, hmagic⟩ := magicReadBody_of_not_tag (hn.portsPass 1).head hne
    exact ⟨_, congrArg endCommand (runSteps_cons_of_raised hmagic [hdrReadBody, decPassBody, flushOutput]),
      rfl, rfl, rfl, rfl⟩

/-! ### The round trip -/

/-- A stream padded to a byte boundary is that of its bytes (R66, R67). -/
theorem bytesToBits_wholeBytes_padToByte (c : Bits) : bytesToBits (wholeBytes (padToByte c)) = padToByte c := by
  have hlen := Nat.mul_div_cancel' (Nat.dvd_of_mod_eq_zero (length_padToByte_mod c))
  rw [wholeBytes, bytesToBits_bitsToBytes hlen.le, hlen, List.take_length]

/-- Settles O52: what COMPRESS writes is the file of a legal tree with distinct leaves, with the pad after the body. -/
theorem compressThenDecompress : Obligations.CompressThenDecompress := by
  intro s s' S hn hb hpos hout hc
  obtain ⟨t, tree, body, hcomp, htree, hbody, hfile, hframe⟩ := compressWritesTheFile s S hn hb hpos hout hc
  refine ⟨t, hcomp, hframe ▸ rfl, fun hn' hmagic hb' hpos' hout' => ?_⟩
  rw [hfile, compressedFile, bytesToBits_wholeBytes_padToByte, ← hmagic, padToByte] at hb'
  obtain ⟨decompresses, -⟩ := decompressReadsTheFile s' hn'
  obtain ⟨u, hdec, hu⟩ := decompresses tree S body _ (buildTree_distinctLeaves htree)
    (buildTree_legal (frequencyOf_eos S) htree) hbody hout' (by rw [hpos', List.drop_zero, hb'])
  have hbits : u.outBits = bytesToBits S := hu ▸ rfl
  exact ⟨u, hdec, hbits ▸ wholeBytes_bytesToBits S, hbits, hu ▸ rfl⟩

end Sys2Proof.Machine
end

section
/-! PROOF. Every command, and every pending word, reaches BUSY = 0 (R235, R298): no sub-operation gets stuck where the
invariant holds, because every turn of a loop that goes round again leaves fewer bits ahead. -/

namespace Sys2Proof.Machine

/-! ### Every sub-operation of every command -/

/-- A property that every write, the reset state and the return from the error state keep holds wherever a
sub-operation of a command ends. -/
theorem commandSteps_endsIn (P : State → Prop) (hw : ∀ s t, Write s t → P s → P t)
    (hreset : ∀ s, P s → P s.resetEngine) (hclear : ∀ s, P s → P s.clearError) (i : Instr) :
    ∀ f ∈ commandSteps i, ∀ s, P s → (f s).EndsIn P := by
  by_cases hs : i = .sreset
  · subst hs
    exact List.forall_mem_singleton.mpr hreset
  by_cases hc : i = .clrerr
  · subst hc
    exact List.forall_mem_singleton.mpr hclear
  exact fun f hf s hP => (commandSteps_writes hs hc f hf s).mono fun t h => h.keeps P hw hP

/-! ### Runs that end -/

/-- The run ends, normally or by a raise. -/
def Run.Ends {α : Type} : Run α → Prop
  | .done _ _ => True
  | .raised _ _ => True
  | .stuck _ => False

section Ends

variable {α β : Type} {r : Run α} {P : State → Prop}

@[simp] theorem Run.ends_done (a : α) (s : State) : (Run.done a s).Ends := trivial
@[simp] theorem Run.ends_raised (e : ErrorKind) (s : State) : (Run.raised e s : Run α).Ends := trivial

theorem Run.Ends.andThen {f : α → State → Run β} (hr : r.Ends) (hf : ∀ a t, r = .done a t → (f a t).Ends) :
    (r.andThen f).Ends := by
  cases r with
  | done a t => exact hf a t rfl
  | raised e t => trivial
  | stuck x => exact hr

theorem ReaderEnds.ends {s : State} (h : ReaderEnds s r) : r.Ends := by
  cases r with
  | done a t => trivial
  | raised e t => trivial
  | stuck x => exact h

theorem runSteps_ends {fs : List (State → Run Unit)} (he : ∀ f ∈ fs, ∀ s, P s → (f s).Ends)
    (hk : ∀ f ∈ fs, ∀ s, P s → (f s).EndsIn P) {s : State} (hs : P s) : (runSteps fs s).Ends := by
  induction fs generalizing s with
  | nil => trivial
  | cons f fs ih =>
    refine (he f (by simp) s hs).andThen fun _ t ht => ?_
    have hkept := hk f (by simp) s hs
    rw [ht] at hkept
    exact ih (fun g hg => he g (by simp [hg])) (fun g hg => hk g (by simp [hg])) hkept

/-- A loop ends whose turns end, where going round again makes the measure `μ` smaller and the bound is above it. -/
theorem repeatWhile_ends {f : State → Run Bool} (μ : State → Nat) (he : ∀ s, P s → (f s).Ends)
    (hd : ∀ s t, P s → f s = .done true t → P t ∧ μ t < μ s) {n : Nat} {s : State} (hs : P s) (hn : μ s < n) :
    (repeatWhile n f s).Ends := by
  induction n generalizing s with
  | zero => cases hn
  | succ n ih =>
    rw [repeatWhile_succ]
    refine (he s hs).andThen fun again t ht => ?_
    cases again with
    | false => trivial
    | true =>
      obtain ⟨hPt, hlt⟩ := hd s t hs ht
      exact ih hPt (by omega)

end Ends

/-- A run that ends its command ends it with BUSY = 0. -/
theorem endCommand_idle {r : Run Unit} (h : r.Ends) : ∃ t, endCommand r = .next t ∧ t.busy = false := by
  cases r with
  | done a t => exact ⟨_, rfl, rfl⟩
  | raised e t => exact ⟨_, rfl, rfl⟩
  | stuck x => exact h.elim

/-! ### The shared operations -/

theorem readOrBreak_ends (n : Nat) (s : State) : (readOrBreak n s).Ends := by
  obtain ⟨h, -⟩ | ⟨h, -⟩ | ⟨h, -⟩ := readOrBreak_cases n s <;> rw [h] <;> trivial

theorem readOrRaise_ends (n : Nat) (e : ErrorKind) (s : State) : (readOrRaise n e s).Ends :=
  (readOrBreak_ends n s).andThen fun v t _ => by cases v <;> trivial

theorem writeField_ends {n : Nat} (v : BitVec n) (s : State) : (writeField v s).Ends := by
  obtain ⟨h, -⟩ | ⟨h, -⟩ := writeField_cases v s <;> rw [h] <;> trivial

theorem flushOutput_ends (s : State) : (flushOutput s).Ends := by
  obtain ⟨h, -⟩ | ⟨h, -⟩ := flushOutput_cases s <;> rw [h] <;> trivial

theorem requireTree_ends (s : State) : (requireTree s).Ends := by
  obtain ⟨h, -⟩ | ⟨t, h, -⟩ := requireTree_cases s <;> rw [h] <;> trivial

theorem requireCodes_ends (s : State) : (requireCodes s).Ends := by
  obtain ⟨h, -⟩ | ⟨h, -⟩ := requireCodes_cases s <;> rw [h] <;> trivial

theorem requireSymbol_ends (v : BitVec 9) (s : State) : (requireSymbol v s).Ends := by
  cases h : symbolOf v <;> simp [requireSymbol, h]

theorem countByte_ends (b : Byte) (s : State) : (countByte b s).Ends := by
  obtain ⟨h, -⟩ | ⟨h, -⟩ := countByte_cases b s <;> rw [h] <;> trivial

theorem emitSymbol_ends (x : Symbol) (s : State) : (emitSymbol x s).Ends := by
  obtain ⟨h, -⟩ | ⟨c, h, -⟩ := emitSymbol_cases x s <;> rw [h]
  · trivial
  · obtain hw | ⟨j, -, hw⟩ := writeBits_cases c s <;> rw [hw] <;> trivial

theorem writeFields_ends (fs : List Bits) (s : State) : (writeFields fs s).Ends := by
  induction fs generalizing s with
  | nil => trivial
  | cons f fs ih => exact (writeField_ends _ s).andThen fun _ t _ => ih t

/-! ### The loops over the bytes ahead -/

/-- What a read consumed is no longer ahead. -/
theorem readOrBreak_eq_some {n : Nat} {s u : State} {v : BitVec n} (h : readOrBreak n s = .done (some v) u) :
    bitsLeft s = bitsLeft u + n := by
  obtain ⟨h', -⟩ | ⟨h', -⟩ | ⟨h', -, hn⟩ := readOrBreak_cases n s <;> cases h'.symm.trans h
  simp only [bitsLeft]
  omega

theorem freqScanTurn_ends (s : State) : (freqScanTurn s).Ends :=
  (readOrBreak_ends 8 s).andThen fun b t _ => by
    cases b with
    | none => trivial
    | some b => exact (countByte_ends b t).andThen fun _ _ _ => trivial

theorem freqScanTurn_again {s t : State} (h : freqScanTurn s = .done true t) : bitsLeft t / 8 < bitsLeft s / 8 := by
  obtain ⟨b, u, hu, h⟩ := Run.andThen_eq_done.mp h
  cases b with
  | none => cases h
  | some b =>
    have hleft := readOrBreak_eq_some hu
    obtain ⟨_, v, hv, h⟩ := Run.andThen_eq_done.mp h
    cases h
    have hsame : bitsLeft t = bitsLeft u := by
      obtain ⟨h', -⟩ | ⟨h', -⟩ := countByte_cases b u <;> cases h'.symm.trans hv
      rfl
    omega

theorem freqScanBody_ends (s : State) : (freqScanBody s).Ends :=
  repeatWhile_ends (P := fun _ => True) (bitsLeft · / 8) (fun s _ => freqScanTurn_ends s)
    (fun _ _ _ h => ⟨trivial, freqScanTurn_again h⟩) trivial (Nat.lt_succ_self _)

theorem encPassTurn_ends (s : State) : (encPassTurn s).Ends :=
  (readOrBreak_ends 8 s).andThen fun b t _ => by
    cases b with
    | none => trivial
    | some b => exact (emitSymbol_ends _ t).andThen fun _ _ _ => trivial

theorem encPassTurn_again {s t : State} (h : encPassTurn s = .done true t) : bitsLeft t / 8 < bitsLeft s / 8 := by
  obtain ⟨b, u, hu, h⟩ := Run.andThen_eq_done.mp h
  cases b with
  | none => cases h
  | some b =>
    have hleft := readOrBreak_eq_some hu
    obtain ⟨_, v, hv, h⟩ := Run.andThen_eq_done.mp h
    cases h
    have hsame : bitsLeft t = bitsLeft u := by
      obtain ⟨c, -, rfl⟩ := emitSymbol_eq_done hv
      rfl
    omega

theorem encPassBody_ends (s : State) : (encPassBody s).Ends :=
  (requireCodes_ends s).andThen fun _ t _ => by
    have hloop : (repeatWhile (bitsLeft t / 8 + 1) encPassTurn t).Ends :=
      repeatWhile_ends (P := fun _ => True) (bitsLeft · / 8) (fun s _ => encPassTurn_ends s)
        (fun _ _ _ h => ⟨trivial, encPassTurn_again h⟩) trivial (Nat.lt_succ_self _)
    exact hloop.andThen fun _ u _ => emitSymbol_ends _ u

/-! ### The decoder -/

theorem settleLeaf_ends (x : Symbol) (s : State) : (settleLeaf x s).Ends := by
  unfold settleLeaf
  split
  · trivial
  · exact writeField_ends _ _

theorem arriveAt_ends (n : Tree) (s : State) : (arriveAt n s).Ends := by
  cases n with
  | leaf x => exact settleLeaf_ends x s
  | node l r => trivial

/-- A decoder with a node at DPATH takes its step: a bit read at an internal node leads to a node. -/
theorem decStep_ends {s : State} {n : Tree} (h : NodeAt s n) : (decStep s).Ends := by
  cases n with
  | leaf x =>
    rw [decStep_leaf h]
    exact settleLeaf_ends x s
  | node l r =>
    by_cases hf : s.portDraws.head? = some true
    · rw [decStep_failing h hf]
      trivial
    by_cases hn : s.inBits.length ≤ s.inPos
    · rw [decStep_short h hf hn]
      trivial
    · rw [decStep_bit h hf (List.drop_eq_getElem_cons (Nat.lt_of_not_le hn))]
      exact arriveAt_ends _ _

/-- The decoder is armed, in a state that meets the invariant. -/
def ArmedInv (s : State) : Prop := Inv s ∧ (s.dstate = .atRoot ∨ s.dstate = .midPath)

theorem ArmedInv.decStep_ends {s : State} (h : ArmedInv s) : (decStep s).Ends := by
  obtain ⟨l, r, hn⟩ | hn := h.1.nodeAt h.2 <;> exact Machine.decStep_ends hn

section DecLoop

variable {again : State → Bool} (hstop : ∀ u : State, u.result[16] = true → u.dstate = .done → again u = false)
include hstop

/-- A turn of the decoder's loops goes round again only past a bit it has read, the decoder still armed: the sentinel
ends both loops, and it is the only leaf that can stand at the root (R39). -/
theorem decTurn_again {s t : State} (hs : ArmedInv s) (h : decTurn again s = .done true t) :
    ArmedInv t ∧ bitsLeft t < bitsLeft s := by
  obtain ⟨_, u, hu, h⟩ := Run.andThen_eq_done.mp h
  injection h with hagain hut
  subst hut
  have hinv : Inv u := by
    have hw := decStep_writes s
    rw [hu] at hw
    exact Writes.keeps hw Inv (fun _ _ => Write.inv) hs.1
  have hgo : ¬ (u.result[16] = true ∧ u.dstate = .done) := fun ⟨hr, hd⟩ => by simp [hstop u hr hd] at hagain
  obtain ⟨l, r, hn⟩ | hn := hs.1.nodeAt hs.2
  · obtain ⟨hleft, ⟨hd, -⟩ | ⟨hr, hd⟩⟩ := decStep_node_eq_done hn hu
    · exact ⟨⟨hinv, .inr hd⟩, by omega⟩
    · exact ⟨⟨hinv, .inl (hd.resolve_right fun hd => hgo ⟨hr, hd⟩)⟩, by omega⟩
  · rw [decStep_leaf hn, settleLeaf_eos] at hu
    cases hu
    have hresult : (0x00030100 : Word)[16] = true := by decide
    exact absurd ⟨hresult, rfl⟩ hgo

theorem decLoop_ends {s : State} (hs : ArmedInv s) : (repeatWhile (bitsLeft s + 1) (decTurn again) s).Ends :=
  repeatWhile_ends bitsLeft (fun _ h => h.decStep_ends.andThen fun _ _ _ => trivial)
    (fun _ _ => decTurn_again hstop) hs (Nat.lt_succ_self _)

end DecLoop

/-- What follows the preconditions of R231 runs in an armed decoder. -/
theorem requireArmed_andThen_ends {s : State} {f : State → Run Unit} (hi : Inv s) (hf : ArmedInv s → (f s).Ends) :
    ((requireArmed s).andThen fun _ t => f t).Ends := by
  cases hd : s.dstate with
  | unarmed =>
    rw [requireArmed_of_unarmed hd]
    trivial
  | done =>
    rw [requireArmed_of_done hd]
    trivial
  | atRoot =>
    rw [requireArmed_of_armed (.inl hd)]
    exact hf ⟨hi, .inl hd⟩
  | midPath =>
    rw [requireArmed_of_armed (.inr hd)]
    exact hf ⟨hi, .inr hd⟩

theorem decBitBody_ends {s : State} (hi : Inv s) : (decBitBody s).Ends :=
  requireArmed_andThen_ends hi ArmedInv.decStep_ends

theorem decSymBody_ends {s : State} (hi : Inv s) : (decSymBody s).Ends :=
  requireArmed_andThen_ends (f := fun t => repeatWhile (bitsLeft t + 1) decSymTurn t) hi
    (decLoop_ends fun u hr _ => by simp [hr])

theorem decPassBody_ends {s : State} (hi : Inv s) : (decPassBody s).Ends :=
  requireArmed_andThen_ends (f := fun t => repeatWhile (bitsLeft t + 1) decPassTurn t) hi
    (decLoop_ends fun u _ hd => by simp [hd])

/-! ### The other bodies -/

theorem freqReadBody_ends (v : BitVec 9) (s : State) : (freqReadBody v s).Ends :=
  (requireSymbol_ends v s).andThen fun _ _ _ => trivial

/-- With the sentinel counted there is a tree to build (R150). -/
theorem treeBuildBody_ends {s : State} (hi : Inv s) : (treeBuildBody s).Ends := by
  obtain ⟨t, ht⟩ := buildTree_of_eos hi.sentinelCount
  rw [treeBuildBody_eq_done ht]
  trivial

theorem codeDeriveBody_ends (s : State) : (codeDeriveBody s).Ends := (requireTree_ends s).andThen fun _ _ _ => trivial

theorem codeReadBody_ends (v : BitVec 9) (k : BitVec 3) (s : State) : (codeReadBody v k s).Ends :=
  (requireSymbol_ends v s).andThen fun _ t _ => (requireCodes_ends t).andThen fun _ _ _ => trivial

theorem hdrWriteBody_ends (s : State) : (hdrWriteBody s).Ends :=
  (requireTree_ends s).andThen fun t u _ => by
    rw [writeTree_eq_writeFields]
    exact writeFields_ends _ u

theorem magicReadBody_ends (s : State) : (magicReadBody s).Ends :=
  (readOrRaise_ends 32 _ s).andThen fun _ t _ => by split <;> trivial

theorem hdrReadBody_ends (s : State) : (hdrReadBody s).Ends :=
  (readNode_readerEnds _ (startHeader s)).ends.andThen fun t u _ => by
    rw [acceptTree_eq]
    split <;> trivial

theorem encSymBody_ends (v : BitVec 9) (s : State) : (encSymBody v s).Ends :=
  (requireSymbol_ends v s).andThen fun x t _ => (requireCodes_ends t).andThen fun _ u _ => emitSymbol_ends x u

theorem decRestartBody_ends (s : State) : (decRestartBody s).Ends := (requireTree_ends s).andThen fun _ _ _ => trivial

/-! ### Commands -/

/-- No sub-operation of a command gets stuck where the invariant holds. -/
theorem commandSteps_ends (i : Instr) : ∀ f ∈ commandSteps i, ∀ s, Inv s → (f s).Ends := by
  cases i with
  | nop => exact List.forall_mem_singleton.mpr fun _ _ => trivial
  | sreset => exact List.forall_mem_singleton.mpr fun _ _ => trivial
  | clrerr => exact List.forall_mem_singleton.mpr fun _ _ => trivial
  | freqInit => exact List.forall_mem_singleton.mpr fun _ _ => trivial
  | freqAdd b => exact List.forall_mem_singleton.mpr fun s _ => countByte_ends b s
  | freqScan => exact List.forall_mem_singleton.mpr fun s _ => freqScanBody_ends s
  | freqRead x => exact List.forall_mem_singleton.mpr fun s _ => freqReadBody_ends x s
  | treeBuild => exact List.forall_mem_singleton.mpr fun _ => treeBuildBody_ends
  | codeDerive => exact List.forall_mem_singleton.mpr fun s _ => codeDeriveBody_ends s
  | codeRead x k => exact List.forall_mem_singleton.mpr fun s _ => codeReadBody_ends x k s
  | magicWrite => exact List.forall_mem_singleton.mpr fun s _ => writeField_ends _ s
  | hdrWrite => exact List.forall_mem_singleton.mpr fun s _ => hdrWriteBody_ends s
  | magicRead => exact List.forall_mem_singleton.mpr fun s _ => magicReadBody_ends s
  | hdrRead => exact List.forall_mem_singleton.mpr fun s _ => hdrReadBody_ends s
  | encSym x => exact List.forall_mem_singleton.mpr fun s _ => encSymBody_ends x s
  | encPass => exact List.forall_mem_singleton.mpr fun s _ => encPassBody_ends s
  | decRestart => exact List.forall_mem_singleton.mpr fun s _ => decRestartBody_ends s
  | decBit => exact List.forall_mem_singleton.mpr fun _ => decBitBody_ends
  | decSym => exact List.forall_mem_singleton.mpr fun _ => decSymBody_ends
  | decPass => exact List.forall_mem_singleton.mpr fun _ => decPassBody_ends
  | inReset => exact List.forall_mem_singleton.mpr fun _ _ => trivial
  | outFlush => exact List.forall_mem_singleton.mpr fun s _ => flushOutput_ends s
  | compress =>
    simp only [commandSteps, compressSteps, List.forall_mem_cons]
    exact ⟨fun _ _ => trivial, fun s _ => freqScanBody_ends s, fun _ => treeBuildBody_ends,
      fun s _ => codeDeriveBody_ends s, fun s _ => writeField_ends _ s, fun s _ => hdrWriteBody_ends s,
      fun _ _ => trivial, fun s _ => encPassBody_ends s, fun s _ => flushOutput_ends s, by simp⟩
  | decompress =>
    simp only [commandSteps, decompressSteps, List.forall_mem_cons]
    exact ⟨fun s _ => magicReadBody_ends s, fun s _ => hdrReadBody_ends s, fun _ => decPassBody_ends,
      fun s _ => flushOutput_ends s, by simp⟩

theorem commandSteps_inv (i : Instr) : ∀ f ∈ commandSteps i, ∀ s, Inv s → (f s).EndsIn Inv :=
  commandSteps_endsIn Inv (fun _ _ => Write.inv) (fun _ hi => inv_resetEngine hi.cursorInside)
    (fun _ => Inv.clearError) i

theorem exec_reaches_idle (i : Instr) {s : State} (hi : Inv s) : ∃ t, exec i s = .next t ∧ t.busy = false := by
  rw [exec_eq_endCommand]
  exact endCommand_idle (runSteps_ends (commandSteps_ends i) (commandSteps_inv i) hi)

theorem engineStep_reaches_idle {s : State} (hi : Inv s) : ∃ t, engineStep s = .next t ∧ t.busy = false := by
  unfold engineStep
  split
  · split
    · exact exec_reaches_idle _ hi
    · exact ⟨_, rfl, rfl⟩
  · exact ⟨s, rfl, by simpa using ‹¬ s.busy = true›⟩

/-- Settles O49: the sub-operations keep the invariant, and none gets stuck where it holds. -/
theorem everyCommandReachesBusyZero : Obligations.EveryCommandReachesBusyZero :=
  fun _ hi => ⟨fun i => exec_reaches_idle i hi, engineStep_reaches_idle hi⟩

end Sys2Proof.Machine
end

section
/-! PROOF. The error matrix (R271): which errors each part of a command can raise. What an earlier sub-operation of
COMPRESS or DECOMPRESS leaves (a tree, a valid code table, an armed decoder) rules out the errors that the later ones
would raise without it. -/

namespace Sys2Proof.Machine

/-- If the run raises an error, it is one of `L`. -/
def Run.RaisesIn {α : Type} (L : List ErrorKind) : Run α → Prop
  | .done _ _ => True
  | .raised e _ => e ∈ L
  | .stuck _ => True

section RaisesIn

variable {α β : Type} {L : List ErrorKind} {r : Run α}

@[simp] theorem Run.raisesIn_done (a : α) (s : State) : (Run.done a s).RaisesIn L := trivial

theorem Run.RaisesIn.andThen {f : α → State → Run β} (hr : r.RaisesIn L)
    (hf : ∀ a t, r = .done a t → (f a t).RaisesIn L) : (r.andThen f).RaisesIn L := by
  cases r with
  | done a t => exact hf a t rfl
  | raised e t => exact hr
  | stuck x => trivial

theorem repeatWhile_raisesIn {f : State → Run Bool} (hf : ∀ s, (f s).RaisesIn L) (n : Nat) (s : State) :
    (repeatWhile n f s).RaisesIn L := by
  induction n generalizing s with
  | zero => trivial
  | succ n ih =>
    rw [repeatWhile_succ]
    refine (hf s).andThen fun again t _ => ?_
    cases again with
    | true => exact ih t
    | false => trivial

/-! ### The shared operations -/

theorem readOrBreak_raisesIn (hio : .ioError ∈ L) (n : Nat) (s : State) : (readOrBreak n s).RaisesIn L := by
  obtain ⟨h, -⟩ | ⟨h, -⟩ | ⟨h, -⟩ := readOrBreak_cases n s <;> rw [h]
  · exact hio
  all_goals trivial

theorem readOrRaise_raisesIn {e : ErrorKind} (hio : .ioError ∈ L) (he : e ∈ L) (n : Nat) (s : State) :
    (readOrRaise n e s).RaisesIn L :=
  (readOrBreak_raisesIn hio n s).andThen fun v _ _ => by
    cases v with
    | none => exact he
    | some v => trivial

theorem writeField_raisesIn (hio : .ioError ∈ L) {n : Nat} (v : BitVec n) (s : State) :
    (writeField v s).RaisesIn L := by
  obtain ⟨h, -⟩ | ⟨h, -⟩ := writeField_cases v s <;> rw [h]
  · exact hio
  · trivial

theorem writeFields_raisesIn (hio : .ioError ∈ L) (fs : List Bits) (s : State) : (writeFields fs s).RaisesIn L := by
  induction fs generalizing s with
  | nil => trivial
  | cons f fs ih => exact (writeField_raisesIn hio _ s).andThen fun _ t _ => ih t

theorem flushOutput_raisesIn (hio : .ioError ∈ L) (s : State) : (flushOutput s).RaisesIn L := by
  obtain ⟨h, -⟩ | ⟨h, -⟩ := flushOutput_cases s <;> rw [h]
  · exact hio
  · trivial

theorem requireTree_raisesIn {s : State} (h : s.tree ≠ none ∨ .noTree ∈ L) : (requireTree s).RaisesIn L := by
  obtain ⟨hr, ht⟩ | ⟨t, hr, -⟩ := requireTree_cases s <;> rw [hr]
  · exact h.resolve_left (absurd ht)
  · trivial

theorem requireCodes_raisesIn {s : State} (h : s.codesValid = true ∨ .noCodes ∈ L) : (requireCodes s).RaisesIn L := by
  obtain ⟨hr, hv⟩ | ⟨hr, -⟩ := requireCodes_cases s <;> rw [hr]
  · exact h.resolve_left (by simp [hv])
  · trivial

/-- The operand of a well-formed command is a symbol (R89). -/
theorem requireSymbol_raisesIn {v : BitVec 9} (hv : symbolInRange v = true) (s : State) :
    (requireSymbol v s).RaisesIn L := by
  have hlt : v.toNat < 257 := Nat.lt_succ_of_le (of_decide_eq_true hv)
  simp [requireSymbol, symbolOf, hlt]

theorem countByte_raisesIn (ho : .countOverflow ∈ L) (b : Byte) (s : State) : (countByte b s).RaisesIn L := by
  obtain ⟨h, -⟩ | ⟨h, -⟩ := countByte_cases b s <;> rw [h]
  · exact ho
  · trivial

theorem emitSymbol_raisesIn (hc : .noCode ∈ L) (hio : .ioError ∈ L) (x : Symbol) (s : State) :
    (emitSymbol x s).RaisesIn L := by
  obtain ⟨h, -⟩ | ⟨c, h, -⟩ := emitSymbol_cases x s <;> rw [h]
  · exact hc
  · obtain hw | ⟨j, -, hw⟩ := writeBits_cases c s <;> rw [hw]
    · trivial
    · exact hio

/-! ### The bodies -/

theorem freqScanBody_raisesIn (hio : .ioError ∈ L) (ho : .countOverflow ∈ L) (s : State) :
    (freqScanBody s).RaisesIn L :=
  repeatWhile_raisesIn (fun s => (readOrBreak_raisesIn hio 8 s).andThen fun b t _ => by
    cases b with
    | none => trivial
    | some b => exact (countByte_raisesIn ho b t).andThen fun _ _ _ => trivial) _ s

theorem freqReadBody_raisesIn {v : BitVec 9} (hv : symbolInRange v = true) (s : State) :
    (freqReadBody v s).RaisesIn L := (requireSymbol_raisesIn hv s).andThen fun _ _ _ => trivial

theorem treeBuildBody_raisesIn (s : State) : (treeBuildBody s).RaisesIn L := by
  unfold treeBuildBody
  split <;> trivial

theorem codeDeriveBody_raisesIn {s : State} (h : s.tree ≠ none ∨ .noTree ∈ L) : (codeDeriveBody s).RaisesIn L :=
  (requireTree_raisesIn h).andThen fun _ _ _ => trivial

theorem codeReadBody_raisesIn (hc : .noCodes ∈ L) {v : BitVec 9} (hv : symbolInRange v = true) (k : BitVec 3)
    (s : State) : (codeReadBody v k s).RaisesIn L :=
  (requireSymbol_raisesIn hv s).andThen fun _ _ _ => (requireCodes_raisesIn (.inr hc)).andThen fun _ _ _ => trivial

theorem hdrWriteBody_raisesIn (hio : .ioError ∈ L) {s : State} (h : s.tree ≠ none ∨ .noTree ∈ L) :
    (hdrWriteBody s).RaisesIn L :=
  (requireTree_raisesIn h).andThen fun t u _ => by
    rw [writeTree_eq_writeFields]
    exact writeFields_raisesIn hio _ u

theorem magicReadBody_raisesIn (hio : .ioError ∈ L) (hu : .unrecognizedFormat ∈ L) (s : State) :
    (magicReadBody s).RaisesIn L :=
  (readOrRaise_raisesIn hio hu 32 s).andThen fun _ _ _ => by
    split
    · trivial
    · exact hu

theorem readNode_raisesIn (hio : .ioError ∈ L) (hm : .malformedHeader ∈ L) (fuel : Nat) (s : State) :
    (readNode fuel s).RaisesIn L := by
  have hends := readNode_readerEnds fuel s
  cases h : readNode fuel s with
  | done t u => trivial
  | stuck x => trivial
  | raised e u =>
    rw [h] at hends
    obtain rfl | ⟨rfl, -⟩ := hends.2
    · exact hm
    · exact hio

theorem hdrReadBody_raisesIn (hio : .ioError ∈ L) (hm : .malformedHeader ∈ L) (s : State) :
    (hdrReadBody s).RaisesIn L :=
  (readNode_raisesIn hio hm _ _).andThen fun t u _ => by
    rw [acceptTree_eq]
    split
    · trivial
    · exact hm

theorem encSymBody_raisesIn (hio : .ioError ∈ L) (hc : .noCode ∈ L) (hcs : .noCodes ∈ L) {v : BitVec 9}
    (hv : symbolInRange v = true) (s : State) : (encSymBody v s).RaisesIn L :=
  (requireSymbol_raisesIn hv s).andThen fun x _ _ =>
    (requireCodes_raisesIn (.inr hcs)).andThen fun _ u _ => emitSymbol_raisesIn hc hio x u

theorem encPassBody_raisesIn (hio : .ioError ∈ L) (hc : .noCode ∈ L) {s : State}
    (h : s.codesValid = true ∨ .noCodes ∈ L) : (encPassBody s).RaisesIn L := by
  have hturn (u : State) : (encPassTurn u).RaisesIn L := (readOrBreak_raisesIn hio 8 u).andThen fun b t _ => by
    cases b with
    | none => trivial
    | some b => exact (emitSymbol_raisesIn hc hio _ t).andThen fun _ _ _ => trivial
  exact (requireCodes_raisesIn h).andThen fun _ t _ =>
    (repeatWhile_raisesIn hturn _ t).andThen fun _ u _ => emitSymbol_raisesIn hc hio _ u

/-! ### The decoder -/

/-- The decoder is armed, or the errors of a decoder that is not are among `L` (R231). -/
def ArmedOr (L : List ErrorKind) (s : State) : Prop :=
  s.dstate = .atRoot ∨ s.dstate = .midPath ∨ (.noTree ∈ L ∧ .decoderDone ∈ L)

theorem requireArmed_raisesIn {s : State} (h : ArmedOr L s) : (requireArmed s).RaisesIn L := by
  obtain h | h | ⟨ht, hd⟩ := h
  · rw [requireArmed_of_armed (.inl h)]
    trivial
  · rw [requireArmed_of_armed (.inr h)]
    trivial
  · unfold requireArmed
    split
    · exact ht
    · exact hd
    all_goals trivial

theorem currentNode_raisesIn (s : State) : (currentNode s).RaisesIn L := by
  obtain h | ⟨t, n, h, -⟩ := currentNode_cases s <;> rw [h] <;> trivial

theorem settleLeaf_raisesIn (hio : .ioError ∈ L) (x : Symbol) (s : State) : (settleLeaf x s).RaisesIn L := by
  unfold settleLeaf
  split
  · trivial
  · exact writeField_raisesIn hio _ _

theorem decStep_raisesIn (hio : .ioError ∈ L) (hm : .missingTerminator ∈ L) (s : State) : (decStep s).RaisesIn L :=
  (currentNode_raisesIn s).andThen fun n t _ => by
    cases n with
    | leaf x => exact settleLeaf_raisesIn hio x t
    | node l r =>
      refine (readOrRaise_raisesIn hio hm 1 t).andThen fun b u _ => (currentNode_raisesIn _).andThen fun m v _ => ?_
      cases m with
      | leaf x => exact settleLeaf_raisesIn hio x v
      | node l r => trivial

theorem decTurn_raisesIn (hio : .ioError ∈ L) (hm : .missingTerminator ∈ L) (again : State → Bool) (s : State) :
    (decTurn again s).RaisesIn L := (decStep_raisesIn hio hm s).andThen fun _ _ _ => trivial

theorem decRestartBody_raisesIn (ht : .noTree ∈ L) (s : State) : (decRestartBody s).RaisesIn L :=
  (requireTree_raisesIn (.inr ht)).andThen fun _ _ _ => trivial

theorem decBitBody_raisesIn (hio : .ioError ∈ L) (hm : .missingTerminator ∈ L) {s : State} (h : ArmedOr L s) :
    (decBitBody s).RaisesIn L := (requireArmed_raisesIn h).andThen fun _ t _ => decStep_raisesIn hio hm t

theorem decSymBody_raisesIn (hio : .ioError ∈ L) (hm : .missingTerminator ∈ L) {s : State} (h : ArmedOr L s) :
    (decSymBody s).RaisesIn L :=
  (requireArmed_raisesIn h).andThen fun _ t _ => repeatWhile_raisesIn (decTurn_raisesIn hio hm _) _ t

theorem decPassBody_raisesIn (hio : .ioError ∈ L) (hm : .missingTerminator ∈ L) {s : State} (h : ArmedOr L s) :
    (decPassBody s).RaisesIn L :=
  (requireArmed_raisesIn h).andThen fun _ t _ => repeatWhile_raisesIn (decTurn_raisesIn hio hm _) _ t

end RaisesIn

/-! ### COMPRESS and DECOMPRESS -/

/-- A tree is held and a code table is valid, as COMPRESS has it from CODE_DERIVE on (R257). -/
def TablesReady (s : State) : Prop := s.tree ≠ none ∧ s.codesValid = true

theorem treeBuildBody_done_tree {s t : State} (h : treeBuildBody s = .done () t) : t.tree ≠ none := by
  unfold treeBuildBody at h
  split at h <;> cases h
  simp

theorem codeDeriveBody_done_ready {s t : State} (h : codeDeriveBody s = .done () t) : TablesReady t := by
  cases htree : s.tree with
  | none => simp [codeDeriveBody, requireTree, htree] at h
  | some tree =>
    cases (codeDeriveBody_of_tree htree).symm.trans h
    exact ⟨by simp [htree], rfl⟩

theorem writeField_done_ready {n : Nat} {v : BitVec n} {s t : State} (h : writeField v s = .done () t)
    (hs : TablesReady s) : TablesReady t := by
  obtain ⟨h', -⟩ | ⟨h', -⟩ := writeField_cases v s <;> cases h'.symm.trans h
  exact hs

theorem writeFields_done_ready {fs : List Bits} {s t : State} (h : writeFields fs s = .done () t)
    (hs : TablesReady s) : TablesReady t := by
  induction fs generalizing s with
  | nil =>
    cases h
    exact hs
  | cons f fs ih =>
    obtain ⟨_, u, hu, h⟩ := Run.andThen_eq_done.mp h
    exact ih h (writeField_done_ready hu hs)

theorem hdrWriteBody_done_ready {s t : State} (h : hdrWriteBody s = .done () t) (hs : TablesReady s) :
    TablesReady t := by
  obtain ⟨tree, htree⟩ := Option.ne_none_iff_exists'.mp hs.1
  rw [hdrWriteBody_eq htree] at h
  exact writeFields_done_ready h hs

theorem compress_raisesIn (s : State) : (runSteps compressSteps s).RaisesIn (mayRaise .compress) := by
  have hio : .ioError ∈ mayRaise .compress := by decide
  have hc : .noCode ∈ mayRaise .compress := by decide
  have ho : .countOverflow ∈ mayRaise .compress := by decide
  refine Run.RaisesIn.andThen (r := freqInitBody s) trivial fun _ t _ =>
    (freqScanBody_raisesIn hio ho t).andThen fun _ t _ =>
    (treeBuildBody_raisesIn t).andThen fun _ t htree =>
    (codeDeriveBody_raisesIn (.inl (treeBuildBody_done_tree htree))).andThen fun _ t ht =>
    (writeField_raisesIn hio _ t).andThen fun _ u hu => ?_
  have hready : TablesReady u := writeField_done_ready hu (codeDeriveBody_done_ready ht)
  refine (hdrWriteBody_raisesIn hio (.inl hready.1)).andThen fun _ v hv =>
    Run.RaisesIn.andThen (r := inResetBody v) trivial fun _ w hw => ?_
  have hready : TablesReady v := hdrWriteBody_done_ready hv hready
  cases hw
  exact (encPassBody_raisesIn (s := rewindInput v) hio hc (.inl hready.2)).andThen fun _ t _ =>
    (flushOutput_raisesIn hio t).andThen fun _ _ _ => trivial

theorem hdrReadBody_done_armed {s t : State} (h : hdrReadBody s = .done () t) : t.dstate = .atRoot := by
  obtain ⟨tree, u, -, h⟩ := Run.andThen_eq_done.mp h
  rw [acceptTree_eq] at h
  split at h <;> cases h
  rfl

theorem decompress_raisesIn (s : State) : (runSteps decompressSteps s).RaisesIn (mayRaise .decompress) := by
  have hio : .ioError ∈ mayRaise .decompress := by decide
  exact (magicReadBody_raisesIn hio (by decide) s).andThen fun _ t _ =>
    (hdrReadBody_raisesIn hio (by decide) t).andThen fun _ t ht =>
    (decPassBody_raisesIn hio (by decide) (.inl (hdrReadBody_done_armed ht))).andThen fun _ t _ =>
    (flushOutput_raisesIn hio t).andThen fun _ _ _ => trivial

/-! ### Commands -/

/-- The errors of each command are those of R271. -/
theorem command_raisesIn {i : Instr} (hi : i.wellFormed = true) (s : State) :
    (runSteps (commandSteps i) s).RaisesIn (mayRaise i) := by
  have single {f : State → Run Unit} {L : List ErrorKind} (h : (f s).RaisesIn L) : (runSteps [f] s).RaisesIn L :=
    h.andThen fun _ _ _ => trivial
  cases i with
  | nop => trivial
  | sreset => trivial
  | clrerr => trivial
  | freqInit => trivial
  | inReset => trivial
  | compress => exact compress_raisesIn s
  | decompress => exact decompress_raisesIn s
  | freqAdd b => exact single (countByte_raisesIn (by simp [mayRaise]) b s)
  | freqScan => exact single (freqScanBody_raisesIn (by decide) (by decide) s)
  | freqRead x => exact single (freqReadBody_raisesIn hi s)
  | treeBuild => exact single (treeBuildBody_raisesIn s)
  | codeDerive => exact single (codeDeriveBody_raisesIn (.inr (by decide)))
  | codeRead x k => exact single (codeReadBody_raisesIn (by simp [mayRaise]) hi k s)
  | magicWrite => exact single (writeField_raisesIn (by decide) _ s)
  | hdrWrite => exact single (hdrWriteBody_raisesIn (by decide) (.inr (by decide)))
  | magicRead => exact single (magicReadBody_raisesIn (by decide) (by decide) s)
  | hdrRead => exact single (hdrReadBody_raisesIn (by decide) (by decide) s)
  | encSym x =>
    exact single (encSymBody_raisesIn (by simp [mayRaise]) (by simp [mayRaise]) (by simp [mayRaise]) hi s)
  | encPass => exact single (encPassBody_raisesIn (by decide) (by decide) (.inr (by decide)))
  | decRestart => exact single (decRestartBody_raisesIn (by decide) s)
  | decBit => exact single (decBitBody_raisesIn (by decide) (by decide) (.inr (.inr (by decide))))
  | decSym => exact single (decSymBody_raisesIn (by decide) (by decide) (.inr (.inr (by decide))))
  | decPass => exact single (decPassBody_raisesIn (by decide) (by decide) (.inr (.inr (by decide))))
  | outFlush => exact single (flushOutput_raisesIn (by decide) s)

theorem commandSteps_err (i : Instr) : ∀ f ∈ commandSteps i, ∀ s, s.err = false → (f s).EndsIn (·.err = false) :=
  commandSteps_endsIn (·.err = false) (fun _ _ hw h => hw.err_cmdDropped.1.trans h) (fun _ _ => rfl) (fun _ _ => rfl) i

/-- Settles O57: no write sets ERR, so the command has raised the error it ends with. -/
theorem errorMatrixHolds : Obligations.ErrorMatrixHolds := by
  intro i s t hi hs h ht
  rw [exec_eq_endCommand] at h
  obtain ⟨u, hu, rfl⟩ | ⟨e, u, hu, rfl⟩ := endCommand_eq_next.mp h
  · have herr : (runSteps (commandSteps i) s).EndsIn (·.err = false) := runSteps_endsIn (commandSteps_err i) hs
    rw [hu] at herr
    cases herr.symm.trans ht
  · have hraised := command_raisesIn hi s
    rw [hu] at hraised
    exact ⟨e, hraised, rfl⟩

end Sys2Proof.Machine
end

section
/-! PROOF. Cutting a part of a rule at a port operation (R290): with the ports cut after `k` operations it does what it
does with the environment's own draws, or it stops at the cut with no more written than it writes without the cut; and,
InReset aside, it never takes input or output back. -/

namespace Sys2Proof.Machine

/-! ### The draws of a cut -/

theorem portDraws_cutPorts_succ (k : Nat) (s : State) :
    (cutPorts (k + 1) s).portDraws =
      s.portDraws.head?.getD false :: (cutPorts k { s with portDraws := s.portDraws.tail }).portDraws := by
  cases h : s.portDraws with
  | nil => simp [cutPorts, h, List.replicate_succ]
  | cons b d => simp [cutPorts, h, List.replicate_succ', ← List.append_assoc, List.take_append]

/-- A cut that lies ahead leaves the next draw as it is. -/
theorem drawPort_cutPorts_succ (k : Nat) (s : State) :
    drawPort (cutPorts (k + 1) s) = ((drawPort s).1, cutPorts k (drawPort s).2) := by
  rw [drawPort_eq, drawPort_eq, portDraws_cutPorts_succ]
  rfl

/-- Under the named premise of R82 the operations before the cut pass, and the next one fails. -/
theorem NoPortFailure.portsPass_cutPorts {s : State} (h : NoPortFailure s) (k : Nat) :
    PortsPass k (cutPorts k s).portDraws ∧ (cutPorts k s).portDraws[k]? = some true := by
  induction k generalizing s with
  | zero => exact ⟨fun _ hk => absurd hk (Nat.not_lt_zero _), rfl⟩
  | succ k ih =>
    have htail : NoPortFailure { s with portDraws := s.portDraws.tail } := h.drop (n := 1) List.drop_one.symm
    obtain ⟨hpass, hfail⟩ := ih htail
    have hhead : s.portDraws.head?.getD false ≠ true := by
      cases hd : s.portDraws with
      | nil => simp
      | cons b d => simp [h b (by simp [hd])]
    rw [portDraws_cutPorts_succ]
    refine ⟨fun j hj => ?_, hfail⟩
    cases j with
    | zero => simpa using hhead
    | succ j => exact hpass j (Nat.lt_of_succ_lt_succ hj)

/-! ### Parts of a rule that can be cut -/

/-- With the ports cut after `k` operations, the part does what it does without the cut, the cut still ahead, or stops
at the cut, where it has written no more than it writes without it; and it only adds to the output. -/
structure CutsShort {α : Type} (f : State → Run α) : Prop where
  grows : ∀ s, (f s).EndsIn fun t => s.outBits <+: t.outBits
  cut : ∀ k s, (∃ j, f (cutPorts k s) = (f s).mapState (cutPorts j)) ∨
    ∃ t, f (cutPorts k s) = .raised .ioError t ∧ (f s).EndsIn fun u => t.outBits <+: u.outBits

/-- A part that can be cut and that gives no input back. -/
structure Abandonable {α : Type} (f : State → Run α) : Prop extends CutsShort f where
  advances : ∀ s, (f s).EndsIn fun t => s.inPos ≤ t.inPos

/-- An update that does not see the draws and moves neither stream. -/
def Quiet (g : State → State) : Prop :=
  ∀ k s, g (cutPorts k s) = cutPorts k (g s) ∧ (g s).inPos = s.inPos ∧ (g s).outBits = s.outBits

namespace Abandonable

variable {α β γ : Type} {f : State → Run α}

/-- A single update, the command's answer a fixed one. -/
theorem update {g : State → State} (a : α) (hg : Quiet g) : Abandonable fun s => .done a (g s) where
  grows s := by simp [(hg 0 s).2.2]
  cut k s := .inl ⟨k, by simp [(hg k s).1, Run.mapState]⟩
  advances s := by simp [(hg 0 s).2.1]

theorem unchanged (a : α) : Abandonable fun s => .done a s := update a fun _ _ => ⟨rfl, rfl, rfl⟩

theorem raised (e : ErrorKind) : Abandonable (α := α) fun s => .raised e s where
  grows _ := List.prefix_rfl
  cut k _ := .inl ⟨k, rfl⟩
  advances _ := Nat.le_refl _

theorem stuck (x : Fault) : Abandonable (α := α) fun _ => .stuck x where
  grows _ := trivial
  cut k _ := .inl ⟨k, rfl⟩
  advances _ := trivial

/-- What a part reads of the state besides the draws is the same where the ports are cut. -/
theorem reads (g : State → γ) (hg : ∀ k s, g (cutPorts k s) = g s) {f : γ → State → Run α}
    (hf : ∀ c, Abandonable (f c)) : Abandonable fun s => f (g s) s where
  grows s := (hf (g s)).grows s
  cut k s := by simpa only [hg] using (hf (g s)).cut k s
  advances s := (hf (g s)).advances s

theorem ite {p : State → Prop} [DecidablePred p] (hp : ∀ k s, p (cutPorts k s) ↔ p s) {f g : State → Run α}
    (hf : Abandonable f) (hg : Abandonable g) : Abandonable fun s => if p s then f s else g s := by
  have hd (b : Bool) : Abandonable fun s => if b then f s else g s := by cases b <;> assumption
  simpa using reads (fun s => decide (p s)) (fun k s => decide_eq_decide.mpr (hp k s)) hd

theorem andThen {g : α → State → Run β} (hf : Abandonable f) (hg : ∀ a, Abandonable (g a)) :
    Abandonable fun s => (f s).andThen g where
  grows s := (hf.grows s).andThen fun a t _ ht => ((hg a).grows t).mono fun _ hu => ht.trans hu
  advances s := (hf.advances s).andThen fun a t _ ht => ((hg a).advances t).mono fun _ hu => Nat.le_trans ht hu
  cut k s := by
    obtain ⟨j, h⟩ | ⟨t, h, ho⟩ := hf.cut k s
    · simp only [h]
      cases f s with
      | done a t => exact (hg a).cut j t
      | raised e t => exact .inl ⟨j, rfl⟩
      | stuck x => exact .inl ⟨j, rfl⟩
    · simp only [h]
      exact .inr ⟨t, rfl, ho.andThen fun a u _ hu => ((hg a).grows u).mono fun _ hv => hu.trans hv⟩

/-- A part after a single update. -/
theorem after {g : State → State} (hg : Quiet g) (hf : Abandonable f) : Abandonable fun s => f (g s) :=
  (update () hg).andThen fun _ => hf

theorem repeatWhile {f : State → Run Bool} (hf : Abandonable f) (n : Nat) : Abandonable (repeatWhile n f) := by
  induction n with
  | zero => exact stuck _
  | succ n ih =>
    refine hf.andThen fun again => ?_
    cases again with
    | true => exact ih
    | false => exact unchanged ()

/-- A loop whose bound is read off the streams. -/
theorem repeatWhile_bound {f : State → Run Bool} (hf : Abandonable f) (n : State → Nat)
    (hn : ∀ k s, n (cutPorts k s) = n s) : Abandonable fun s => Machine.repeatWhile (n s) f s :=
  reads n hn hf.repeatWhile

end Abandonable

/-! ### The port operations -/

/-- A port operation: it fails, or does what `g` does past its draw (R82). -/
def portOperation {α : Type} (g : State → Run α) (s : State) : Run α :=
  match drawPort s with
  | (true, t) => .raised .ioError t
  | (false, t) => g t

theorem portOperation_cases {α : Type} (g : State → Run α) (s : State) :
    portOperation g s = .raised .ioError { s with portDraws := s.portDraws.tail } ∨
    portOperation g s = g { s with portDraws := s.portDraws.tail } := by
  rw [portOperation, drawPort_eq]
  cases s.portDraws.head?.getD false
  · exact .inr rfl
  · exact .inl rfl

theorem portOperation_cutPorts_zero {α : Type} (g : State → Run α) (s : State) :
    portOperation g (cutPorts 0 s) = .raised .ioError { s with portDraws := [] } := rfl

theorem portOperation_cutPorts_succ {α : Type} (g : State → Run α) (k : Nat) (s : State) :
    (portOperation g (cutPorts (k + 1) s) = .raised .ioError (cutPorts k { s with portDraws := s.portDraws.tail }) ∧
      portOperation g s = .raised .ioError { s with portDraws := s.portDraws.tail }) ∨
    (portOperation g (cutPorts (k + 1) s) = g (cutPorts k { s with portDraws := s.portDraws.tail }) ∧
      portOperation g s = g { s with portDraws := s.portDraws.tail }) := by
  rw [portOperation, portOperation, drawPort_cutPorts_succ, drawPort_eq]
  cases s.portDraws.head?.getD false
  · exact .inr ⟨rfl, rfl⟩
  · exact .inl ⟨rfl, rfl⟩

theorem Abandonable.portOperation {α : Type} {g : State → Run α} (hg : Abandonable g) :
    Abandonable (portOperation g) := by
  have grows (s : State) : (Machine.portOperation g s).EndsIn fun t => s.outBits <+: t.outBits := by
    obtain h | h := portOperation_cases g s <;> rw [h]
    · exact List.prefix_rfl
    · exact hg.grows _
  refine { grows, cut := fun k s => ?_, advances := fun s => ?_ }
  · cases k with
    | zero => exact .inr ⟨_, portOperation_cutPorts_zero g s, grows s⟩
    | succ k =>
      obtain ⟨hc, h⟩ | ⟨hc, h⟩ := portOperation_cutPorts_succ g k s <;> rw [hc, h]
      · exact .inl ⟨k, rfl⟩
      · exact hg.cut k _
  · obtain h | h := portOperation_cases g s <;> rw [h]
    · exact Nat.le_refl _
    · exact hg.advances _

/-- What a read does past its draw (R61). -/
def takeBits (n : Nat) (s : State) : Run (Option (BitVec n)) :=
  if s.inPos + n > s.inBits.length then .done none s
  else .done (some (BitVec.ofNat n (num ((s.inBits.drop s.inPos).take n)))) { s with inPos := s.inPos + n }

theorem takeBits_abandonable (n : Nat) : Abandonable (takeBits n) := by
  refine .ite (fun _ _ => .rfl) (.unchanged none) { grows := ?_, cut := fun k _ => .inl ⟨k, rfl⟩, advances := ?_ }
  · exact fun _ => List.prefix_rfl
  · exact fun _ => Nat.le_add_right _ _

theorem readOrBreak_eq_portOperation (n : Nat) : readOrBreak n = portOperation (takeBits n) := by
  funext s
  unfold readOrBreak portRead portOperation
  rcases drawPort s with ⟨_ | _, t⟩
  · by_cases hn : t.inPos + n > t.inBits.length <;> simp [takeBits, hn]
  · rfl

/-- What a write of some bits does past its draw (R62, R65). -/
theorem append_abandonable {g : Bits → Bits} (hg : ∀ c, c <+: g c) :
    Abandonable fun s : State => .done () { s with outBits := g s.outBits } where
  grows s := hg s.outBits
  cut k _ := .inl ⟨k, rfl⟩
  advances _ := Nat.le_refl _

theorem readOrBreak_abandonable (n : Nat) : Abandonable (readOrBreak n) :=
  readOrBreak_eq_portOperation n ▸ (takeBits_abandonable n).portOperation

theorem readOrRaise_abandonable (n : Nat) (e : ErrorKind) : Abandonable (readOrRaise n e) :=
  (readOrBreak_abandonable n).andThen fun v => by
    cases v with
    | none => exact .raised e
    | some v => exact .unchanged v

theorem writeField_abandonable {n : Nat} (v : BitVec n) : Abandonable (writeField v) :=
  (append_abandonable fun c => List.prefix_append c (bitsOf v)).portOperation

theorem flushOutput_abandonable : Abandonable flushOutput :=
  (append_abandonable (g := padToByte) fun c => List.prefix_append c _).portOperation

theorem writeBits_abandonable (c : Bits) : Abandonable (writeBits c) := by
  induction c with
  | nil => exact .unchanged ()
  | cons b c ih => exact (writeField_abandonable _).andThen fun _ => ih

/-! ### Preconditions and tables -/

theorem requireTree_abandonable : Abandonable requireTree :=
  .reads (f := fun o s => match o with | some t => .done t s | none => .raised .noTree s) State.tree
    (fun _ _ => rfl) fun o => by
      cases o with
      | none => exact .raised _
      | some t => exact .unchanged t

theorem requireCodes_abandonable : Abandonable requireCodes :=
  .ite (p := fun s => s.codesValid = true) (fun _ _ => .rfl) (.unchanged ()) (.raised _)

theorem requireSymbol_abandonable (v : BitVec 9) : Abandonable (requireSymbol v) := by
  unfold requireSymbol
  cases symbolOf v with
  | none => exact .raised _
  | some x => exact .unchanged x

theorem requireArmed_abandonable : Abandonable requireArmed :=
  .reads (f := fun d s => match d with
    | .unarmed => .raised .noTree s
    | .done => .raised .decoderDone s
    | .atRoot | .midPath => .done () s) State.dstate (fun _ _ => rfl) fun d => by
      cases d with
      | unarmed => exact .raised _
      | done => exact .raised _
      | atRoot => exact .unchanged ()
      | midPath => exact .unchanged ()

theorem countByte_abandonable (b : Byte) : Abandonable (countByte b) :=
  .ite (p := fun s => s.count (byteSymbol b) = Config.countMax) (fun _ _ => .rfl) (.raised _)
    (.update () fun _ _ => ⟨rfl, rfl, rfl⟩)

theorem emitSymbol_abandonable (x : Symbol) : Abandonable (emitSymbol x) :=
  .reads (f := fun o s => match o with | some c => writeBits c s | none => .raised .noCode s) (·.codeFor x)
    (fun _ _ => rfl) fun o => by
      cases o with
      | none => exact .raised _
      | some c => exact writeBits_abandonable c

end Sys2Proof.Machine
end

section
/-! PROOF. Every sub-operation of every command can be cut, and only InReset gives input back. -/

namespace Sys2Proof.Machine

/-! ### The tables and the encoder -/

theorem freqInitBody_abandonable : Abandonable freqInitBody :=
  .update _ fun _ _ => ⟨rfl, rfl, rfl⟩

theorem freqScanBody_abandonable : Abandonable freqScanBody := by
  have hturn : Abandonable freqScanTurn := (readOrBreak_abandonable 8).andThen fun b => by
    cases b with
    | none => exact .unchanged false
    | some b => exact (countByte_abandonable b).andThen fun _ => .unchanged true
  exact hturn.repeatWhile_bound _ fun _ _ => rfl

theorem freqReadBody_abandonable (v : BitVec 9) : Abandonable (freqReadBody v) :=
  (requireSymbol_abandonable v).andThen fun _ => .update _ fun _ _ => ⟨rfl, rfl, rfl⟩

theorem treeBuildBody_abandonable : Abandonable treeBuildBody :=
  .reads (f := fun freq s => match buildTree freq with
    | none => .stuck .heapEmpty
    | some t => .done () (State.installTree t { s with
        codesValid := false, heap := (finalHeap freq).map fun x => BitVec.ofNat 10 x.index }))
    State.freq (fun _ _ => rfl) fun freq => by
      cases buildTree freq with
      | none => exact .stuck _
      | some t => exact .update _ fun _ _ => ⟨rfl, rfl, rfl⟩

theorem codeDeriveBody_abandonable : Abandonable codeDeriveBody :=
  requireTree_abandonable.andThen fun _ => .update _ fun _ _ => ⟨rfl, rfl, rfl⟩

theorem showCode_abandonable (c : Option Bits) (k : BitVec 3) : Abandonable fun s => .done () (showCode c k s) := by
  cases c <;> exact .update _ fun _ _ => ⟨rfl, rfl, rfl⟩

theorem codeReadBody_abandonable (v : BitVec 9) (k : BitVec 3) : Abandonable (codeReadBody v k) :=
  (requireSymbol_abandonable v).andThen fun x => requireCodes_abandonable.andThen fun _ =>
    .reads (f := fun c s => .done () (showCode c k s)) (·.codeFor x) (fun _ _ => rfl) fun c => showCode_abandonable c k

theorem encSymBody_abandonable (v : BitVec 9) : Abandonable (encSymBody v) :=
  (requireSymbol_abandonable v).andThen fun x => requireCodes_abandonable.andThen fun _ => emitSymbol_abandonable x

theorem encPassBody_abandonable : Abandonable encPassBody := by
  have hturn : Abandonable encPassTurn := (readOrBreak_abandonable 8).andThen fun b => by
    cases b with
    | none => exact .unchanged false
    | some b => exact (emitSymbol_abandonable _).andThen fun _ => .unchanged true
  exact requireCodes_abandonable.andThen fun _ =>
    (hturn.repeatWhile_bound (bitsLeft · / 8 + 1) fun _ _ => rfl).andThen fun _ => emitSymbol_abandonable _

/-! ### The header codec -/

theorem magicWriteBody_abandonable : Abandonable magicWriteBody :=
  .reads State.magic (fun _ _ => rfl) fun m => writeField_abandonable m

theorem writeTree_abandonable (t : Tree) : Abandonable (writeTree t) := by
  induction t with
  | leaf x => exact (writeField_abandonable _).andThen fun _ => writeField_abandonable _
  | node l r ihl ihr => exact (writeField_abandonable _).andThen fun _ => ihl.andThen fun _ => ihr

theorem hdrWriteBody_abandonable : Abandonable hdrWriteBody := requireTree_abandonable.andThen writeTree_abandonable

theorem magicReadBody_abandonable : Abandonable magicReadBody :=
  (readOrRaise_abandonable 32 _).andThen fun v =>
    .ite (p := fun t => v = t.magic) (fun _ _ => .rfl) (.unchanged ()) (.raised _)

theorem readLeaf_abandonable : Abandonable readLeaf :=
  (readOrRaise_abandonable 9 _).andThen fun v => by
    cases symbolOf v with
    | none => exact .raised _
    | some x => exact .update _ fun _ _ => ⟨rfl, rfl, rfl⟩

theorem readNode_abandonable (fuel : Nat) : Abandonable (readNode fuel) := by
  induction fuel with
  | zero => exact .raised _
  | succ fuel ih =>
    have hpair : Abandonable (readPair fuel) :=
      (ih.after (g := fun s => pushPending (countNode s)) fun _ _ => ⟨rfl, rfl, rfl⟩).andThen fun l =>
        (ih.after (g := setPendingLeft l) fun _ _ => ⟨rfl, rfl, rfl⟩).andThen fun _ =>
          .update _ fun _ _ => ⟨rfl, rfl, rfl⟩
    rw [funext (readNode_succ fuel)]
    refine .ite (fun _ _ => .rfl) (.raised _) ((readOrRaise_abandonable 1 _).andThen fun f => ?_)
    split
    · exact hpair
    · exact readLeaf_abandonable

theorem acceptTree_abandonable (t : Tree) : Abandonable (acceptTree t) := by
  rw [funext (acceptTree_eq t)]
  exact .ite (fun _ _ => .rfl) (.update _ fun _ _ => ⟨rfl, rfl, rfl⟩) (.raised _)

theorem hdrReadBody_abandonable : Abandonable hdrReadBody :=
  ((readNode_abandonable _).after (g := startHeader) fun _ _ => ⟨rfl, rfl, rfl⟩).andThen
    acceptTree_abandonable

/-! ### The decoder -/

theorem currentNode_abandonable : Abandonable currentNode :=
  .reads (f := fun (c : Option Tree × Bits) s => match c.1 with
    | none => .stuck .pathOutsideTree
    | some t =>
      match subtree t c.2 with
      | none => .stuck .pathOutsideTree
      | some n => .done n s) (fun s => (s.tree, s.dpath)) (fun _ _ => rfl) fun ⟨o, p⟩ => by
    cases o with
    | none => exact .stuck _
    | some t =>
      dsimp only
      cases subtree t p with
      | none => exact .stuck _
      | some n => exact .unchanged n

theorem settleLeaf_abandonable (x : Symbol) : Abandonable (settleLeaf x) :=
  .ite (p := fun _ => x = Config.eos) (fun _ _ => .rfl)
    (.update _ fun _ _ => ⟨rfl, rfl, rfl⟩)
    ((writeField_abandonable _).after fun _ _ => ⟨rfl, rfl, rfl⟩)

theorem arriveAt_abandonable (n : Tree) : Abandonable (arriveAt n) := by
  cases n with
  | leaf x => exact settleLeaf_abandonable x
  | node l r => exact .update _ fun _ _ => ⟨rfl, rfl, rfl⟩

theorem decStep_abandonable : Abandonable decStep :=
  currentNode_abandonable.andThen fun n => by
    cases n with
    | leaf x => exact settleLeaf_abandonable x
    | node l r =>
      exact (readOrRaise_abandonable 1 _).andThen fun b =>
        (currentNode_abandonable.andThen arriveAt_abandonable).after
          (g := fun u => { u with dpath := u.dpath ++ [b == 1] }) fun _ _ => ⟨rfl, rfl, rfl⟩

theorem decLoop_abandonable {again : State → Bool} (ha : ∀ k s, again (cutPorts k s) = again s) :
    Abandonable fun s => (requireArmed s).andThen fun _ t => repeatWhile (bitsLeft t + 1) (decTurn again) t := by
  have hturn : Abandonable (decTurn again) :=
    decStep_abandonable.andThen fun _ => .reads again ha .unchanged
  exact requireArmed_abandonable.andThen fun _ => hturn.repeatWhile_bound (bitsLeft · + 1) fun _ _ => rfl

theorem decRestartBody_abandonable : Abandonable decRestartBody :=
  requireTree_abandonable.andThen fun _ => .update _ fun _ _ => ⟨rfl, rfl, rfl⟩

theorem decBitBody_abandonable : Abandonable decBitBody := requireArmed_abandonable.andThen fun _ => decStep_abandonable

theorem decSymBody_abandonable : Abandonable decSymBody := decLoop_abandonable fun _ _ => rfl

theorem decPassBody_abandonable : Abandonable decPassBody := decLoop_abandonable fun _ _ => rfl

/-! ### Commands -/

theorem inResetBody_cutsShort : CutsShort inResetBody where
  grows _ := List.prefix_rfl
  cut k _ := .inl ⟨k, rfl⟩

/-- The sub-operations of COMPRESS but for InReset give no input back. -/
theorem compressSteps_abandonable : ∀ f ∈ compressSteps.eraseIdx 6, Abandonable f := by
  simp only [compressSteps, List.eraseIdx_cons_succ, List.eraseIdx_cons_zero, List.forall_mem_cons]
  exact ⟨freqInitBody_abandonable, freqScanBody_abandonable, treeBuildBody_abandonable, codeDeriveBody_abandonable,
    magicWriteBody_abandonable, hdrWriteBody_abandonable, encPassBody_abandonable, flushOutput_abandonable, by simp⟩

theorem decompressSteps_abandonable : ∀ f ∈ decompressSteps, Abandonable f := by
  simp only [decompressSteps, List.forall_mem_cons]
  exact ⟨magicReadBody_abandonable, hdrReadBody_abandonable, decPassBody_abandonable, flushOutput_abandonable, by simp⟩

/-- Each sub-operation gives no input back, or is InReset, where IN_RESET and COMPRESS have it. -/
theorem commandSteps_abandonable {i : Instr} {n : Nat} {f : State → Run Unit} (h : (commandSteps i)[n]? = some f) :
    Abandonable f ∨ f = inResetBody ∧ (i = .inReset ∨ i = .compress ∧ n = 6) := by
  have single {g : State → Run Unit} (hs : commandSteps i = [g]) (hg : Abandonable g) : Abandonable f := by
    rw [hs] at h
    exact List.mem_singleton.mp (List.mem_of_getElem? h) ▸ hg
  cases i with
  | nop => exact .inl (single rfl (.unchanged ()))
  | sreset => exact .inl (single rfl (.update _ fun _ _ => ⟨rfl, rfl, rfl⟩))
  | clrerr => exact .inl (single rfl (.update _ fun _ _ => ⟨rfl, rfl, rfl⟩))
  | freqInit => exact .inl (single rfl freqInitBody_abandonable)
  | freqAdd b => exact .inl (single rfl (countByte_abandonable b))
  | freqScan => exact .inl (single rfl freqScanBody_abandonable)
  | freqRead x => exact .inl (single rfl (freqReadBody_abandonable x))
  | treeBuild => exact .inl (single rfl treeBuildBody_abandonable)
  | codeDerive => exact .inl (single rfl codeDeriveBody_abandonable)
  | codeRead x k => exact .inl (single rfl (codeReadBody_abandonable x k))
  | magicWrite => exact .inl (single rfl magicWriteBody_abandonable)
  | hdrWrite => exact .inl (single rfl hdrWriteBody_abandonable)
  | magicRead => exact .inl (single rfl magicReadBody_abandonable)
  | hdrRead => exact .inl (single rfl hdrReadBody_abandonable)
  | encSym x => exact .inl (single rfl (encSymBody_abandonable x))
  | encPass => exact .inl (single rfl encPassBody_abandonable)
  | decRestart => exact .inl (single rfl decRestartBody_abandonable)
  | decBit => exact .inl (single rfl decBitBody_abandonable)
  | decSym => exact .inl (single rfl decSymBody_abandonable)
  | decPass => exact .inl (single rfl decPassBody_abandonable)
  | outFlush => exact .inl (single rfl flushOutput_abandonable)
  | inReset => exact .inr ⟨List.mem_singleton.mp (List.mem_of_getElem? h), .inl rfl⟩
  | decompress => exact .inl (decompressSteps_abandonable f (List.mem_of_getElem? h))
  | compress =>
    by_cases hn : n = 6
    · subst hn
      exact .inr ⟨Option.some_injective _ h.symm, .inr ⟨rfl, rfl⟩⟩
    · exact .inl (compressSteps_abandonable f (List.mem_eraseIdx_iff_getElem?.mpr ⟨n, hn, h⟩))

theorem commandSteps_cutsShort (i : Instr) : ∀ f ∈ commandSteps i, CutsShort f := by
  intro f hf
  obtain ⟨n, hn⟩ := List.mem_iff_getElem?.mp hf
  obtain h | ⟨rfl, -⟩ := commandSteps_abandonable hn
  · exact h.toCutsShort
  · exact inResetBody_cutsShort

end Sys2Proof.Machine
end

section
/-! PROOF. The reset input to a running command (R290, R274, R84): where it abandons the command, what it keeps of it,
and how that compares with the whole command. -/

namespace Sys2Proof.Machine

/-! ### The state whose ports reset keeps -/

theorem resetInput_of_command {s : State} {i : Instr} (hb : s.busy = true) (hi : decodeWord s.pend = .command i)
    (subOps portOps : Nat) :
    resetInput subOps portOps s = (abandonedAt (commandSteps i) subOps portOps s).resetEngine := by
  simp [resetInput, hb, hi]

/-- An idle engine and an illegal word have no command to abandon. -/
theorem resetInput_of_no_command {s : State} (h : s.busy = false ∨ ∃ why, decodeWord s.pend = .illegal why)
    (subOps portOps : Nat) : resetInput subOps portOps s = s.resetEngine := by
  obtain hb | ⟨why, hw⟩ := h
  · exact resetInput_idle hb subOps portOps
  · simp [resetInput, hw]

section AbandonedAt

variable {steps : List (State → Run Unit)} {subOps portOps k : Nat} {s t : State} {f : State → Run Unit}

theorem abandonedAt_of_raised {e : ErrorKind} (h : runSteps (steps.take subOps) s = .raised e t) :
    abandonedAt steps subOps portOps s = t := by simp [abandonedAt, h]

theorem abandonedAt_between (h : runSteps (steps.take subOps) s = .done () t) :
    abandonedAt steps subOps 0 s = t := by simp [abandonedAt, h]

theorem abandonedAt_inside (h : runSteps (steps.take subOps) s = .done () t) (hf : steps[subOps]? = some f) :
    abandonedAt steps subOps (k + 1) s = { stoppedAt (cutPorts k t) (f (cutPorts k t)) with
      portDraws := drawsAfterCut k t (stoppedAt (cutPorts k t) (f (cutPorts k t))) } := by
  simp [abandonedAt, h, hf]

/-- Past the last sub-operation the whole command has taken place. -/
theorem abandonedAt_of_length_le (h : steps.length ≤ subOps) :
    (runSteps steps s).EndsIn fun v => abandonedAt steps subOps portOps s = v := by
  have hwhole : runSteps (steps.take subOps) s = runSteps steps s := by rw [List.take_of_length_le h]
  obtain ⟨x, hx, -⟩ | ⟨e, t, ht, ha⟩ | ⟨t, ht, -, ha⟩ | ⟨_, _, f, _, -, -, hf, -⟩ :=
    abandonedAt_cases steps subOps portOps s
  · simp [← hwhole, hx]
  · simpa [← hwhole, ht] using ha
  · simpa [← hwhole, ht] using ha
  · simp [List.getElem?_eq_none h] at hf

/-- A property of the state after the whole sub-operations that does not see the draws and that the next one keeps. -/
theorem abandonedAt_keeps_after (P : State → Prop) (hd : ∀ s d, P s → P { s with portDraws := d })
    (h : runSteps (steps.take subOps) s = .done () t) (hf : ∀ f, steps[subOps]? = some f → ∀ s, P s → (f s).EndsIn P)
    (ht : P t) : P (abandonedAt steps subOps portOps s) := by
  cases portOps with
  | zero => exact abandonedAt_between h ▸ ht
  | succ k =>
    cases hn : steps[subOps]? with
    | none => simpa [abandonedAt, h, hn] using ht
    | some f =>
      rw [abandonedAt_inside h hn]
      exact hd _ _ (stoppedAt_of_endsIn (hf f hn _ (hd t _ ht)) (hd t _ ht))

end AbandonedAt

/-! ### What has been written -/

/-- The output `c` and whatever was added to it. -/
def WroteAfter (c : Bits) (s : State) : Prop := c <+: s.outBits

theorem CutsShort.wroteAfter {α : Type} {f : State → Run α} (hf : CutsShort f) (c : Bits) (s : State)
    (hs : WroteAfter c s) : (f s).EndsIn (WroteAfter c) := (hf.grows s).mono fun _ ht => hs.trans ht

theorem CutsShort.stoppedAt_cut {f : State → Run Unit} (hf : CutsShort f) (k : Nat) (s : State) :
    (f s).EndsIn (WroteAfter (stoppedAt (cutPorts k s) (f (cutPorts k s))).outBits) := by
  obtain ⟨j, h⟩ | ⟨t, h, ho⟩ := hf.cut k s <;> rw [h]
  · cases f s with
    | done a t => exact List.prefix_rfl
    | raised e t => exact List.prefix_rfl
    | stuck x => trivial
  · exact ho

/-- What the abandoned command has written is the beginning of what it would have written. -/
theorem abandonedAt_output {steps : List (State → Run Unit)} (hsteps : ∀ f ∈ steps, CutsShort f) (subOps portOps : Nat)
    (s : State) : (runSteps steps s).EndsIn (WroteAfter (abandonedAt steps subOps portOps s).outBits) := by
  have hrest (n : Nat) (c : Bits) {t : State} (ht : WroteAfter c t) :
      (runSteps (steps.drop n) t).EndsIn (WroteAfter c) :=
    runSteps_endsIn (fun f hf => (hsteps f (List.mem_of_mem_drop hf)).wroteAfter c) ht
  rw [← List.take_append_drop subOps steps, runSteps_append, List.take_append_drop]
  obtain ⟨x, hx, -⟩ | ⟨e, t, ht, ha⟩ | ⟨t, ht, -, ha⟩ | ⟨t, k, f, u, ht, -, hf, rfl, ha⟩ :=
    abandonedAt_cases steps subOps portOps s
  · rw [hx]
    trivial
  · rw [ht, ha]
    exact List.prefix_rfl
  · rw [ht, ha]
    exact hrest subOps _ List.prefix_rfl
  · obtain ⟨hlt, hget⟩ := List.getElem?_eq_some_iff.mp hf
    rw [ht, ha, Run.andThen_done, List.drop_eq_getElem_cons hlt, hget, runSteps_cons]
    exact ((hsteps f (List.mem_of_getElem? hf)).stoppedAt_cut k t).andThen fun _ v _ hv => hrest _ _ hv

/-- How a command's rule ends its command leaves the ports as the rule does. -/
theorem ports_of_endCommand {P : State → Prop} {r : Run Unit} {w : State} (h : endCommand r = .next w)
    (hr : r.EndsIn P) :
    ∃ v, P v ∧ w.inPos = v.inPos ∧ w.outBits = v.outBits ∧ w.portDraws = v.portDraws := by
  obtain ⟨v, rfl, rfl⟩ | ⟨e, v, rfl, rfl⟩ := endCommand_eq_next.mp h <;> exact ⟨v, hr, rfl, rfl, rfl⟩

/-! ### What reset does not see of the command -/

/-- MAGIC, the input and the host's side are those of `s`. -/
def SameHost (s t : State) : Prop :=
  t.magic = s.magic ∧ t.inBits = s.inBits ∧ t.hostMoves = s.hostMoves ∧ t.hostReplies = s.hostReplies ∧
    t.freeDraws = s.freeDraws

theorem Write.sameHost {r s t : State} (h : Write s t) (hs : SameHost r s) : SameHost r t := by
  cases h <;> exact hs

theorem SameHost.resetEngine {s t : State} (h : SameHost s t) :
    t.resetEngine = { s.resetEngine with inPos := t.inPos, outBits := t.outBits, portDraws := t.portDraws } := by
  obtain ⟨hmagic, hin, hmoves, hreplies, hfree⟩ := h
  simp [State.resetEngine, hmagic, hin, hmoves, hreplies, hfree]

theorem abandonedAt_sameHost (i : Instr) (subOps portOps : Nat) (s : State) :
    SameHost s (abandonedAt (commandSteps i) subOps portOps s) :=
  abandonedAt_keeps (SameHost s) (fun _ _ h => h)
    (commandSteps_endsIn (SameHost s) (fun _ _ => Write.sameHost) (fun _ h => h) (fun _ h => h) i) subOps portOps
    ⟨rfl, rfl, rfl, rfl, rfl⟩

/-- Reset gives the reset state, the streams and the draws as the command it abandons left them, which has only added
to the output (R290). -/
theorem resetInput_frame (subOps portOps : Nat) (s : State) :
    resetInput subOps portOps s = { s.resetEngine with
      inPos := (resetInput subOps portOps s).inPos, outBits := (resetInput subOps portOps s).outBits
      portDraws := (resetInput subOps portOps s).portDraws } ∧
    s.outBits <+: (resetInput subOps portOps s).outBits := by
  obtain h | ⟨i, -, -, h⟩ := resetInput_cases subOps portOps s <;> rw [h]
  · exact ⟨rfl, List.prefix_rfl⟩
  · exact ⟨(abandonedAt_sameHost i subOps portOps s).resetEngine,
      abandonedAt_keeps (WroteAfter s.outBits) (fun _ _ h => h)
        (fun f hf => (commandSteps_cutsShort i f hf).wroteAfter _) subOps portOps List.prefix_rfl⟩

theorem resetInput_at_start (s : State) : resetInput 0 0 s = s.resetEngine := by
  obtain h | ⟨i, -, -, h⟩ := resetInput_cases 0 0 s
  · exact h
  · rw [h, abandonedAt_between (t := s) rfl]

/-! ### After whole sub-operations -/

theorem abandonedAt_after_done {i : Instr} {subOps portOps : Nat} {s u : State}
    (hu : runSteps ((commandSteps i).take subOps) s = .done () u) :
    u.outBits <+: (abandonedAt (commandSteps i) subOps portOps s).outBits ∧
      (i ≠ .inReset → ¬ (i = .compress ∧ subOps = 6) →
        u.inPos ≤ (abandonedAt (commandSteps i) subOps portOps s).inPos) := by
  refine ⟨abandonedAt_keeps_after (WroteAfter u.outBits) (fun _ _ h => h) hu
    (fun f hf => (commandSteps_cutsShort i f (List.mem_of_getElem? hf)).wroteAfter _) List.prefix_rfl, fun hr hc => ?_⟩
  refine abandonedAt_keeps_after (u.inPos ≤ ·.inPos) (fun _ _ h => h) hu (fun f hf s hs => ?_) (Nat.le_refl _)
  obtain h | ⟨-, h⟩ := commandSteps_abandonable hf
  · exact (h.advances s).mono fun _ ht => Nat.le_trans hs ht
  · exact absurd h (not_or.mpr ⟨hr, hc⟩)

/-! ### ENC_SYM and FREQ_SCAN -/

/-- A run that used up the first `m` draws of a cut used up as many of the environment's, or all up to the cut. -/
theorem drawsAfterCut_drop {k m : Nat} {s t : State} (h : t.portDraws = (cutPorts k s).portDraws.drop m) :
    drawsAfterCut k s t = s.portDraws.drop (min k m) := by
  rw [drawsAfterCut, h, List.length_drop, cutPorts_portDraws_length]
  congr 1
  omega

/-- ENC_SYM cut after `k` operations has written the first `k` bits of its code. -/
theorem abandonedAt_encSym {x : Symbol} {c : Bits} {s : State} (k : Nat) (hv : s.codesValid = true)
    (hc : s.codeFor x = some c) (hn : NoPortFailure s) :
    abandonedAt (commandSteps (.encSym (symbolField x))) 0 (k + 1) s =
      { s with outBits := s.outBits ++ c.take k, portDraws := s.portDraws.drop (min k c.length) } := by
  obtain ⟨hpass, hfail⟩ := hn.portsPass_cutPorts k
  have hbody : encSymBody (symbolField x) (cutPorts k s) = emitSymbol x (cutPorts k s) :=
    encSymBody_of_codesValid (s := cutPorts k s) hv x
  rw [abandonedAt_inside (t := s) rfl rfl, hbody]
  obtain hk | hk := Nat.lt_or_ge k c.length
  · rw [emitSymbol_failing (s := cutPorts k s) hc hk hpass hfail, stoppedAt, drawsAfterCut_drop (m := k + 1) rfl,
      Nat.min_eq_left (Nat.le_succ k), Nat.min_eq_left hk.le]
    rfl
  · rw [emitSymbol_passing (s := cutPorts k s) hc (hpass.mono hk), stoppedAt, drawsAfterCut_drop (m := c.length) rfl,
      List.take_of_length_le hk]
    rfl

theorem CountsFit.take {B : List Byte} {s : State} (h : CountsFit B s) (k : Nat) : CountsFit (B.take k) s := fun x =>
  (Nat.add_le_add_left ((List.take_sublist k B).count_le x) _).trans_lt (h x)

/-- FREQ_SCAN cut after `k` operations has consumed `k` bytes, or all there are. -/
theorem abandonedAt_freqScan {s : State} (k : Nat) (hn : NoPortFailure s) (hc : CountsFit (bytesAhead s) s) :
    (abandonedAt (commandSteps .freqScan) 0 (k + 1) s).inPos = s.inPos + 8 * min k (bitsLeft s / 8) ∧
      (abandonedAt (commandSteps .freqScan) 0 (k + 1) s).outBits = s.outBits := by
  obtain ⟨hpass, hfail⟩ := hn.portsPass_cutPorts k
  rw [abandonedAt_inside (t := s) rfl rfl]
  obtain hk | hk := Nat.lt_or_ge (bitsLeft s / 8) k
  · rw [freqScanBody_done (s := cutPorts k s) (fun j hj => hpass j (Nat.lt_of_le_of_lt hj hk)) hc,
      Nat.min_eq_right hk.le]
    exact ⟨congrArg (s.inPos + 8 * ·) (length_bytesAhead s), rfl⟩
  · have hlen : ((bytesAhead s).take k).length = k := List.length_take_of_le (by simpa using hk)
    have hbody := freqScanBody_failing (s := cutPorts k s) (List.take_append_drop k (bytesAhead s)).symm
      (hlen.symm ▸ hpass) (hlen.symm ▸ hfail) (hc.take k)
    rw [hbody, Nat.min_eq_left hk]
    exact ⟨congrArg (s.inPos + 8 * ·) hlen, rfl⟩

/-- Settles O14: the reset state keeps the ports of the abandoned command, which are those of its whole sub-operations
and of the next one up to the cut. -/
theorem resetAbandonsTheCommand : Obligations.ResetAbandonsTheCommand := by
  intro s subOps portOps rest hm
  obtain ⟨hframe, added, hadded⟩ := resetInput_frame subOps portOps { s with hostMoves := rest }
  refine ⟨_, step_of_hostMoves hm, hframe, ⟨added, hadded.symm⟩, fun h => ?_, fun i hb hi => ?_⟩
  · have hstill : resetInput subOps portOps { s with hostMoves := rest } =
        State.resetEngine { s with hostMoves := rest } := by
      obtain h | h | ⟨rfl, rfl⟩ := h
      · exact resetInput_of_no_command (s := { s with hostMoves := rest }) (.inl h) _ _
      · exact resetInput_of_no_command (s := { s with hostMoves := rest }) (.inr h) _ _
      · exact resetInput_at_start _
    rw [hstill]
    exact ⟨rfl, rfl, rfl⟩
  rw [resetInput_of_command (s := { s with hostMoves := rest }) hb hi]
  refine ⟨fun u hu => ?_, fun e u hu => ?_, fun w hw => ?_, ?_, ?_⟩
  · obtain ⟨hout, hin⟩ := abandonedAt_after_done (portOps := portOps) hu
    refine ⟨hout, hin, fun hz => ?_, fun f k v hf hk hv => ?_⟩
    · rw [hz, abandonedAt_between hu]
      exact ⟨rfl, rfl, rfl⟩
    · rw [hk, abandonedAt_inside hu hf]
      obtain hv | ⟨e, hv⟩ := hv <;> rw [hv] <;> exact ⟨rfl, rfl⟩
  · rw [abandonedAt_of_raised hu]
    exact ⟨rfl, rfl, rfl⟩
  · rw [exec_eq_endCommand] at hw
    refine ⟨?_, fun hlen => ?_⟩
    · obtain ⟨v, hv, -, hout, -⟩ :=
        ports_of_endCommand hw (abandonedAt_output (commandSteps_cutsShort i) subOps portOps _)
      exact hout ▸ hv
    · obtain ⟨v, rfl, hin, hout, hdraws⟩ := ports_of_endCommand hw (abandonedAt_of_length_le (portOps := portOps) hlen)
      exact ⟨hin.symm, hout.symm, hdraws.symm⟩
  · rintro x c k rfl hv hc hn rfl rfl
    rw [abandonedAt_encSym (s := { s with hostMoves := rest }) k hv hc hn]
    exact ⟨rfl, rfl, rfl⟩
  · rintro k rfl hn hc rfl rfl
    exact abandonedAt_freqScan (s := { s with hostMoves := rest }) k hn hc

end Sys2Proof.Machine
end

section
/-! PROOF. The acceptance of a command and the engine's turn (R100, R101, R288). -/

namespace Sys2Proof.Machine

theorem step_of_no_moves {s : State} (h : s.hostMoves = []) : step s = engineStep s := by
  simp only [step, h]

theorem engineStep_command {s : State} {i : Instr} (hb : s.busy = true) (hi : decodeWord s.pend = .command i) :
    engineStep s = exec i s := by
  simp only [engineStep, hb, hi, if_true]

theorem engineStep_idle {s : State} (hb : s.busy = false) : engineStep s = .next s := by
  simp [engineStep, hb]

/-- Settles O5: who moves is the head of the host's moves, and the engine's turn is by BUSY and the decoded word. -/
theorem stepRunsTheDecodedCommand : Obligations.StepRunsTheDecodedCommand :=
  fun _ => ⟨step_of_no_moves, fun _ => step_of_hostMoves, fun _ => engineStep_command, fun _ => engineStep_illegal,
    engineStep_idle⟩

theorem passesInError_iff {w : Word} : passesInError w = true ↔ w = 0x00000001 ∨ w = 0x00000002 := by
  simp [passesInError]

/-- Settles O6: a write of CMD offers its word, which is dropped while busy, dropped in the error state, or accepted. -/
theorem commandWriteAcceptance : Obligations.CommandWriteAcceptance := by
  intro s w rest hm
  have hstep : step s = .next (offerCommand w { s with hostMoves := rest }) :=
    (step_of_hostMoves hm).trans (hostWrite_cmd w _)
  rw [hstep]
  refine ⟨fun hb => ?_, fun hb he h1 h2 => ?_, fun hb h => ?_⟩
  · exact congrArg _ (offerCommand_busy (s := { s with hostMoves := rest }) hb w)
  · have hw : passesInError w = false := Bool.eq_false_iff.mpr fun hp => (passesInError_iff.mp hp).elim h1 h2
    exact congrArg _ (offerCommand_dropped_in_error (s := { s with hostMoves := rest }) hb he hw)
  · obtain he | hw := h
    · exact congrArg _ (offerCommand_accepted (s := { s with hostMoves := rest }) hb he w)
    · exact congrArg _ (offerCommand_passing (s := { s with hostMoves := rest }) hb (passesInError_iff.mpr hw))

end Sys2Proof.Machine
end

section
/-! PROOF. COMPRESS and DECOMPRESS as sequences of commands (R104): none of their sub-operations sees BUSY, so what the
end of one command writes there is nothing to the next. -/

namespace Sys2Proof.Machine

/-! ### The shared operations do not see BUSY -/

namespace IgnoresBusy

variable {α γ : Type} {f g : State → Run α}

/-- What a part reads of the state besides BUSY is the same once BUSY is 0. -/
theorem reads (h : State → γ) (hh : ∀ s, h s.finish = h s) {f : γ → State → Run α} (hf : ∀ c, IgnoresBusy (f c)) :
    IgnoresBusy fun s => f (h s) s := by
  intro s
  simp only [hh]
  exact hf (h s) s

theorem ite {p : State → Prop} [DecidablePred p] (hp : ∀ s : State, p s.finish ↔ p s) (hf : IgnoresBusy f)
    (hg : IgnoresBusy g) : IgnoresBusy fun s => if p s then f s else g s := by
  intro s
  by_cases h : p s
  · simpa only [if_pos h, if_pos ((hp s).mpr h)] using hf s
  · simpa only [if_neg h, if_neg (mt (hp s).mp h)] using hg s

/-- A part after an update that leaves BUSY alone. -/
theorem after {h : State → State} (hh : ∀ s : State, h s.finish = (h s).finish) (hf : IgnoresBusy f) :
    IgnoresBusy fun s => f (h s) := by
  intro s
  simp only [hh]
  exact hf (h s)

theorem portOperation (hg : IgnoresBusy g) : IgnoresBusy (portOperation g) := by
  intro s
  have hdraw : drawPort s.finish = ((drawPort s).1, (drawPort s).2.finish) := by
    rw [drawPort_eq, drawPort_eq]
    rfl
  unfold Machine.portOperation
  rw [hdraw]
  rcases drawPort s with ⟨_ | _, t⟩
  · exact hg t
  · rfl

end IgnoresBusy

theorem readOrBreak_ignoresBusy (n : Nat) : IgnoresBusy (readOrBreak n) := by
  rw [readOrBreak_eq_portOperation]
  exact .portOperation (.ite (fun _ => .rfl) (fun _ => rfl) fun _ => rfl)

theorem flushOutput_ignoresBusy : IgnoresBusy flushOutput :=
  IgnoresBusy.portOperation (g := fun t => .done () { t with outBits := padToByte t.outBits }) fun _ => rfl

theorem writeBits_ignoresBusy (c : Bits) : IgnoresBusy (writeBits c) := by
  induction c with
  | nil => exact fun _ => rfl
  | cons b c ih => exact (writeField_ignoresBusy _).andThen fun _ => ih

theorem requireTree_ignoresBusy : IgnoresBusy requireTree :=
  .reads (f := fun o s => match o with | some t => .done t s | none => .raised .noTree s) State.tree
    (fun _ => rfl) fun o => by cases o <;> exact fun _ => rfl

theorem requireCodes_ignoresBusy : IgnoresBusy requireCodes :=
  .ite (p := fun s => s.codesValid = true) (fun _ => .rfl) (fun _ => rfl) fun _ => rfl

theorem countByte_ignoresBusy (b : Byte) : IgnoresBusy (countByte b) :=
  .ite (p := fun s => s.count (byteSymbol b) = Config.countMax) (fun _ => .rfl) (fun _ => rfl) fun _ => rfl

theorem emitSymbol_ignoresBusy (x : Symbol) : IgnoresBusy (emitSymbol x) :=
  .reads (f := fun o s => match o with | some c => writeBits c s | none => .raised .noCode s) (·.codeFor x)
    (fun _ => rfl) fun o => by
      cases o with
      | none => exact fun _ => rfl
      | some c => exact writeBits_ignoresBusy c

/-! ### The sub-operations of COMPRESS and DECOMPRESS -/

theorem freqScanBody_ignoresBusy : IgnoresBusy freqScanBody := by
  have hturn : IgnoresBusy freqScanTurn := (readOrBreak_ignoresBusy 8).andThen fun b => by
    cases b with
    | none => exact fun _ => rfl
    | some b => exact (countByte_ignoresBusy b).andThen fun _ _ => rfl
  exact fun s => hturn.repeatWhile (bitsLeft s / 8 + 1) s

theorem treeBuildBody_ignoresBusy : IgnoresBusy treeBuildBody :=
  .reads (f := fun freq s => match buildTree freq with
    | none => .stuck .heapEmpty
    | some t => .done () (State.installTree t { s with
        codesValid := false, heap := (finalHeap freq).map fun x => BitVec.ofNat 10 x.index }))
    State.freq (fun _ => rfl) fun freq => by cases buildTree freq <;> exact fun _ => rfl

theorem codeDeriveBody_ignoresBusy : IgnoresBusy codeDeriveBody := requireTree_ignoresBusy.andThen fun _ _ => rfl

theorem magicWriteBody_ignoresBusy : IgnoresBusy magicWriteBody := fun s => writeField_ignoresBusy s.magic s

theorem writeTree_ignoresBusy (t : Tree) : IgnoresBusy (writeTree t) := by
  induction t with
  | leaf x => exact (writeField_ignoresBusy _).andThen fun _ => writeField_ignoresBusy _
  | node l r ihl ihr => exact (writeField_ignoresBusy _).andThen fun _ => ihl.andThen fun _ => ihr

theorem hdrWriteBody_ignoresBusy : IgnoresBusy hdrWriteBody := requireTree_ignoresBusy.andThen writeTree_ignoresBusy

theorem encPassBody_ignoresBusy : IgnoresBusy encPassBody := by
  have hturn : IgnoresBusy encPassTurn := (readOrBreak_ignoresBusy 8).andThen fun b => by
    cases b with
    | none => exact fun _ => rfl
    | some b => exact (emitSymbol_ignoresBusy _).andThen fun _ _ => rfl
  exact requireCodes_ignoresBusy.andThen fun _ =>
    IgnoresBusy.andThen (f := fun s => repeatWhile (bitsLeft s / 8 + 1) encPassTurn s)
      (fun s => hturn.repeatWhile (bitsLeft s / 8 + 1) s) fun _ => emitSymbol_ignoresBusy _

theorem magicReadBody_ignoresBusy : IgnoresBusy magicReadBody :=
  (readOrRaise_ignoresBusy 32 _).andThen fun v =>
    .ite (p := fun t => v = t.magic) (fun _ => .rfl) (fun _ => rfl) fun _ => rfl

theorem readLeaf_ignoresBusy : IgnoresBusy readLeaf :=
  (readOrRaise_ignoresBusy 9 _).andThen fun v => by cases symbolOf v <;> exact fun _ => rfl

theorem readNode_ignoresBusy (fuel : Nat) : IgnoresBusy (readNode fuel) := by
  induction fuel with
  | zero => exact fun _ => rfl
  | succ fuel ih =>
    have hpair : IgnoresBusy (readPair fuel) :=
      (ih.after (h := fun s => pushPending (countNode s)) fun _ => rfl).andThen fun l =>
        (ih.after (h := setPendingLeft l) fun _ => rfl).andThen fun _ _ => rfl
    rw [funext (readNode_succ fuel)]
    refine .ite (fun _ => .rfl) (fun _ => rfl) ((readOrRaise_ignoresBusy 1 _).andThen fun f => ?_)
    split
    · exact hpair
    · exact readLeaf_ignoresBusy

theorem hdrReadBody_ignoresBusy : IgnoresBusy hdrReadBody :=
  ((readNode_ignoresBusy _).after (h := startHeader) fun _ => rfl).andThen fun t => by
    rw [funext (acceptTree_eq t)]
    exact .ite (fun _ => .rfl) (fun _ => rfl) fun _ => rfl

theorem compressSteps_ignoreBusy : ∀ f ∈ compressSteps, IgnoresBusy f := by
  simp only [compressSteps, List.forall_mem_cons]
  exact ⟨fun _ => rfl, freqScanBody_ignoresBusy, treeBuildBody_ignoresBusy, codeDeriveBody_ignoresBusy,
    magicWriteBody_ignoresBusy, hdrWriteBody_ignoresBusy, fun _ => rfl, encPassBody_ignoresBusy,
    flushOutput_ignoresBusy, by simp⟩

theorem decompressSteps_ignoreBusy : ∀ f ∈ decompressSteps, IgnoresBusy f := by
  simp only [decompressSteps, List.forall_mem_cons]
  exact ⟨magicReadBody_ignoresBusy, hdrReadBody_ignoresBusy, decPassBody_ignoresBusy, flushOutput_ignoresBusy,
    by simp⟩

/-! ### Commands one after another -/

theorem runSteps_ignoresBusy {fs : List (State → Run Unit)} (h : ∀ f ∈ fs, IgnoresBusy f) :
    IgnoresBusy (runSteps fs) := by
  induction fs with
  | nil => exact fun _ => rfl
  | cons f fs ih => exact (h f (by simp)).andThen fun _ => ih fun g hg => h g (by simp [hg])

theorem exec_finish {i : Instr} (h : ∀ f ∈ commandSteps i, IgnoresBusy f) (s : State) : exec i s.finish = exec i s := by
  rw [exec_eq_endCommand, exec_eq_endCommand]
  exact (runSteps_ignoresBusy h).endCommand_finish s

/-- Commands that do not see BUSY, run in order and stopped at the first error, are one command with the sub-operations
of all of them: a normal end sets no ERR, and an abort does. -/
theorem runCommands_finish {is : List Instr} (h : ∀ i ∈ is, ∀ f ∈ commandSteps i, IgnoresBusy f) {s : State}
    (hs : s.err = false) : runCommands is s.finish = endCommand (runSteps (is.flatMap commandSteps) s) := by
  induction is generalizing s with
  | nil => rfl
  | cons i is ih =>
    rw [runCommands, exec_finish (h i (by simp)), exec_eq_endCommand, List.flatMap_cons, runSteps_append]
    have herr : (runSteps (commandSteps i) s).EndsIn (·.err = false) := runSteps_endsIn (commandSteps_err i) hs
    cases hr : runSteps (commandSteps i) s with
    | done a t =>
      rw [hr] at herr
      simpa [show t.err = false from herr] using ih (fun j hj => h j (by simp [hj])) herr
    | raised e t => rfl
    | stuck x => rfl

/-- A command with the sub-operations of a list of commands does what they do in order, up to the first error. -/
theorem exec_eq_runCommands {i j : Instr} {js : List Instr} (hsub : (j :: js).flatMap commandSteps = commandSteps i)
    (h : ∀ f ∈ commandSteps i, IgnoresBusy f) {s : State} (hs : s.err = false) :
    exec i s = runCommands (j :: js) s := by
  have hmem : ∀ k ∈ j :: js, ∀ f ∈ commandSteps k, IgnoresBusy f := fun k hk f hf =>
    h f (hsub ▸ List.mem_flatMap.mpr ⟨k, hk, hf⟩)
  rw [exec_eq_endCommand, ← hsub, ← runCommands_finish hmem hs, runCommands, runCommands,
    exec_finish (hmem j (by simp))]

/-- Settles O53: the two lists of commands have the sub-operations of COMPRESS and DECOMPRESS. -/
theorem sequencesAreTheirSubcommands : Obligations.SequencesAreTheirSubcommands :=
  fun _ hs => ⟨exec_eq_runCommands (i := .compress) rfl compressSteps_ignoreBusy hs,
    exec_eq_runCommands (i := .decompress) rfl decompressSteps_ignoreBusy hs⟩

end Sys2Proof.Machine
end

section
/-! PROOF. The frame of every command (R48, R84, R86, R109): the state is cut into parts, each with its writers, and a
rule is followed once to see that it leaves every part alone that its command is no writer of. -/

namespace Sys2Proof.Machine

/-! ### Parts of the state -/

/-- The parts of the state but for BUSY, each with writers of its own. -/
inductive StatePart where
  | freq | tree | code | codesValid | decoder | result | codeBits | input | output | draws
  /-- PEND and LAST_OP. -/
  | latch
  /-- CMD_DROPPED. -/
  | dropped
  /-- ERR and ERRCODE. -/
  | error
  /-- MAGIC, IN_BITS and the host's side. -/
  | host

/-- The type of a part's value. -/
def StatePart.Value : StatePart → Type
  | .freq => Vector Word 257
  | .tree => Option Tree × List (BitVec 10) × List (Option Tree) × BitVec 10
  | .code => Vector (Option Bits) 257
  | .codesValid => Bool
  | .decoder => DState × Bits
  | .result | .codeBits => Word
  | .input => Nat
  | .output => Bits
  | .draws => List Bool
  | .latch => Word × BitVec 8
  | .dropped => Bool
  | .error => Bool × BitVec 4
  | .host => Word × Bits × List HostMove × List HostReply × Nat

/-- The value of each part. -/
def State.part (s : State) : (p : StatePart) → p.Value
  | .freq => s.freq
  | .tree => (s.tree, s.heap, s.hdrStack, s.hdrCount)
  | .code => s.code
  | .codesValid => s.codesValid
  | .decoder => (s.dstate, s.dpath)
  | .result => s.result
  | .codeBits => s.codeBits
  | .input => s.inPos
  | .output => s.outBits
  | .draws => s.portDraws
  | .latch => (s.pend, s.lastOp)
  | .dropped => s.cmdDropped
  | .error => (s.err, s.errCode)
  | .host => (s.magic, s.inBits, s.hostMoves, s.hostReplies, s.freeDraws)

/-- The parts a command's rule may write, an abort aside: those the rules name it a writer of. It takes draws where R105
gives it port operations, whatever the input. -/
def mayWrite (i : Instr) : StatePart → Bool
  | .freq => writesFreq i
  | .tree => writesTree i
  | .code => writesCode i
  | .codesValid => writesCodesValid i
  | .decoder => writesDecoder i
  | .result => writesResult i
  | .codeBits => writesCodeBits i
  | .input => movesInput i
  | .output => writesOutput i
  | .draws => workBound i 0 0 != 0
  | .latch => i == .sreset
  | .dropped | .error => i == .sreset || i == .clrerr
  | .host => false

/-- Outside the parts `W` the state `t` is as `s`. -/
def SameBut (W : StatePart → Bool) (s t : State) : Prop := ∀ p, W p = false → t.part p = s.part p

/-- A part of a rule that writes in `W` alone, at its end and where it raises. -/
def WritesOnly {α : Type} (W : StatePart → Bool) (f : State → Run α) : Prop := ∀ s, (f s).EndsIn (SameBut W s)

/-- Two things that hold wherever the run ends. -/
theorem Run.EndsIn.and {α : Type} {P Q : State → Prop} {r : Run α} (hp : r.EndsIn P) (hq : r.EndsIn Q) :
    r.EndsIn fun t => P t ∧ Q t := by
  cases r with
  | done a t => exact ⟨hp, hq⟩
  | raised e t => exact ⟨hp, hq⟩
  | stuck x => trivial

section WritesOnly

variable {α β : Type} {W : StatePart → Bool} {f : State → Run α}

theorem SameBut.refl (s : State) : SameBut W s s := fun _ _ => rfl

theorem SameBut.trans {s t u : State} (h : SameBut W s t) (h' : SameBut W t u) : SameBut W s u := fun p hp =>
  (h' p hp).trans (h p hp)

/-- A run that starts after some writes in `W`. -/
theorem Run.EndsIn.afterSameBut {s t : State} {r : Run α} (h : r.EndsIn (SameBut W t)) (hst : SameBut W s t) :
    r.EndsIn (SameBut W s) := h.mono fun _ => hst.trans

theorem WritesOnly.andThen {g : α → State → Run β} (hf : WritesOnly W f) (hg : ∀ a, WritesOnly W (g a)) :
    WritesOnly W fun s => (f s).andThen g := fun s =>
  (hf s).andThen fun a t _ ht => (hg a t).afterSameBut ht

theorem WritesOnly.repeatWhile {f : State → Run Bool} (hf : WritesOnly W f) (n : Nat) :
    WritesOnly W (repeatWhile n f) := by
  induction n with
  | zero => exact fun _ => trivial
  | succ n ih =>
    refine hf.andThen fun again => ?_
    cases again with
    | true => exact ih
    | false => exact SameBut.refl

theorem runSteps_writesOnly {fs : List (State → Run Unit)} (h : ∀ f ∈ fs, WritesOnly W f) :
    WritesOnly W (runSteps fs) := fun s =>
  runSteps_endsIn (fun f hf t ht => (h f hf t).afterSameBut ht) (SameBut.refl s)

/-! ### The shared operations -/

theorem requireTree_writesOnly : WritesOnly W requireTree := fun s => by
  obtain ⟨h, -⟩ | ⟨t, h, -⟩ := requireTree_cases s <;> rw [h] <;> exact .refl s

theorem requireCodes_writesOnly : WritesOnly W requireCodes := fun s => by
  obtain ⟨h, -⟩ | ⟨h, -⟩ := requireCodes_cases s <;> rw [h] <;> exact .refl s

theorem requireSymbol_writesOnly (v : BitVec 9) : WritesOnly W (requireSymbol v) := fun s => by
  unfold requireSymbol
  split <;> exact .refl s

theorem requireArmed_writesOnly : WritesOnly W requireArmed := fun s => by
  unfold requireArmed
  split <;> exact .refl s

theorem currentNode_writesOnly : WritesOnly W currentNode := fun s => by
  obtain h | ⟨t, n, h, -⟩ := currentNode_cases s <;> rw [h]
  · trivial
  · exact .refl s

theorem countByte_writesOnly (hfreq : W .freq = true) (b : Byte) : WritesOnly W (countByte b) := fun s => by
  obtain ⟨h, -⟩ | ⟨h, -⟩ := countByte_cases b s <;> rw [h]
  · exact .refl s
  · intro p hp
    cases p with
    | freq => cases hfreq.symm.trans hp
    | _ => rfl

section Ports

variable (hd : W .draws = true)
include hd

theorem sameBut_draws (s : State) (d : List Bool) : SameBut W s { s with portDraws := d } := fun p hp => by
  cases p with
  | draws => cases hd.symm.trans hp
  | _ => rfl

theorem portOperation_writesOnly {g : State → Run α} (hg : WritesOnly W g) : WritesOnly W (portOperation g) :=
  fun s => by
    obtain h | h := portOperation_cases g s <;> rw [h]
    · exact sameBut_draws hd s _
    · exact (hg _).afterSameBut (sameBut_draws hd s _)

theorem readOrBreak_writesOnly (hi : W .input = true) (n : Nat) : WritesOnly W (readOrBreak n) := by
  rw [readOrBreak_eq_portOperation]
  refine portOperation_writesOnly hd fun s => ?_
  unfold takeBits
  split
  · exact .refl s
  · intro p hp
    cases p with
    | input => cases hi.symm.trans hp
    | _ => rfl

theorem readOrRaise_writesOnly (hi : W .input = true) (n : Nat) (e : ErrorKind) : WritesOnly W (readOrRaise n e) :=
  (readOrBreak_writesOnly hd hi n).andThen fun v s => by cases v <;> exact .refl s

section Output

variable (ho : W .output = true)
include ho

theorem append_writesOnly (g : Bits → Bits) :
    WritesOnly W (portOperation fun s => .done () { s with outBits := g s.outBits }) :=
  portOperation_writesOnly hd fun s p hp => by
    cases p with
    | output => cases ho.symm.trans hp
    | _ => rfl

theorem writeField_writesOnly {n : Nat} (v : BitVec n) : WritesOnly W (writeField v) :=
  append_writesOnly hd ho (· ++ bitsOf v)

theorem flushOutput_writesOnly : WritesOnly W flushOutput := append_writesOnly hd ho padToByte

theorem writeBits_writesOnly (c : Bits) : WritesOnly W (writeBits c) := by
  induction c with
  | nil => exact SameBut.refl
  | cons b c ih => exact (writeField_writesOnly hd ho _).andThen fun _ => ih

theorem emitSymbol_writesOnly (x : Symbol) : WritesOnly W (emitSymbol x) := fun s => by
  obtain ⟨h, -⟩ | ⟨c, h, -⟩ := emitSymbol_cases x s <;> rw [h]
  · exact .refl s
  · exact writeBits_writesOnly hd ho c s

end Output

end Ports

/-! ### The tables and the encoder -/

theorem freqInitBody_writesOnly (hfreq : W .freq = true) : WritesOnly W freqInitBody := fun s p hp => by
  cases p with
  | freq => cases hfreq.symm.trans hp
  | _ => rfl

theorem freqScanBody_writesOnly (hd : W .draws = true) (hi : W .input = true) (hfreq : W .freq = true) :
    WritesOnly W freqScanBody := fun s => by
  have hturn : WritesOnly W freqScanTurn := (readOrBreak_writesOnly hd hi 8).andThen fun b => by
    cases b with
    | none => exact SameBut.refl
    | some b => exact (countByte_writesOnly hfreq b).andThen fun _ => SameBut.refl
  exact hturn.repeatWhile _ s

theorem freqReadBody_writesOnly (hr : W .result = true) (v : BitVec 9) : WritesOnly W (freqReadBody v) :=
  (requireSymbol_writesOnly v).andThen fun x s p hp => by
    cases p with
    | result => cases hr.symm.trans hp
    | _ => rfl

theorem treeBuildBody_writesOnly (ht : W .tree = true) (hv : W .codesValid = true) (hdec : W .decoder = true) :
    WritesOnly W treeBuildBody := fun s => by
  unfold treeBuildBody
  split
  · trivial
  · intro p hp
    cases p with
    | tree => cases ht.symm.trans hp
    | codesValid => cases hv.symm.trans hp
    | decoder => cases hdec.symm.trans hp
    | _ => rfl

theorem codeDeriveBody_writesOnly (hc : W .code = true) (hv : W .codesValid = true) : WritesOnly W codeDeriveBody :=
  requireTree_writesOnly.andThen fun t s p hp => by
    cases p with
    | code => cases hc.symm.trans hp
    | codesValid => cases hv.symm.trans hp
    | _ => rfl

theorem codeReadBody_writesOnly (hr : W .result = true) (hb : W .codeBits = true) (v : BitVec 9) (k : BitVec 3) :
    WritesOnly W (codeReadBody v k) :=
  (requireSymbol_writesOnly v).andThen fun x => requireCodes_writesOnly.andThen fun _ s => by
    have hshow (r c : Word) : SameBut W s { s with result := r, codeBits := c } := fun p hp => by
      cases p with
      | result => cases hr.symm.trans hp
      | codeBits => cases hb.symm.trans hp
      | _ => rfl
    cases s.codeFor x <;> exact hshow _ _

theorem encSymBody_writesOnly (hd : W .draws = true) (ho : W .output = true) (v : BitVec 9) :
    WritesOnly W (encSymBody v) :=
  (requireSymbol_writesOnly v).andThen fun x => requireCodes_writesOnly.andThen fun _ => emitSymbol_writesOnly hd ho x

theorem encPassTurn_writesOnly (hd : W .draws = true) (hi : W .input = true) (ho : W .output = true) :
    WritesOnly W encPassTurn :=
  (readOrBreak_writesOnly hd hi 8).andThen fun b => by
    cases b with
    | none => exact SameBut.refl
    | some b => exact (emitSymbol_writesOnly hd ho _).andThen fun _ => SameBut.refl

theorem encPassBody_writesOnly (hd : W .draws = true) (hi : W .input = true) (ho : W .output = true) :
    WritesOnly W encPassBody :=
  requireCodes_writesOnly.andThen fun _ s =>
    (((encPassTurn_writesOnly hd hi ho).repeatWhile (bitsLeft s / 8 + 1)).andThen fun _ =>
      emitSymbol_writesOnly hd ho _) s

/-! ### The header codec -/

theorem writeTree_writesOnly (hd : W .draws = true) (ho : W .output = true) (t : Tree) :
    WritesOnly W (writeTree t) := by
  induction t with
  | leaf x => exact (writeField_writesOnly hd ho _).andThen fun _ => writeField_writesOnly hd ho _
  | node l r ihl ihr => exact (writeField_writesOnly hd ho _).andThen fun _ => ihl.andThen fun _ => ihr

theorem hdrWriteBody_writesOnly (hd : W .draws = true) (ho : W .output = true) : WritesOnly W hdrWriteBody :=
  requireTree_writesOnly.andThen (writeTree_writesOnly hd ho)

theorem magicReadBody_writesOnly (hd : W .draws = true) (hi : W .input = true) : WritesOnly W magicReadBody :=
  (readOrRaise_writesOnly hd hi 32 _).andThen fun v s => by split <;> exact .refl s

section HeaderReader

variable (ht : W .tree = true)
include ht

/-- The reader's stack and count. -/
theorem sameBut_header (s : State) (st : List (Option Tree)) (n : BitVec 10) :
    SameBut W s { s with hdrStack := st, hdrCount := n } := fun p hp => by
  cases p with
  | tree => cases ht.symm.trans hp
  | _ => rfl

variable (hd : W .draws = true) (hi : W .input = true)
include hd hi

theorem readLeaf_writesOnly : WritesOnly W readLeaf :=
  (readOrRaise_writesOnly hd hi 9 _).andThen fun v s => by
    cases symbolOf v with
    | none => exact .refl s
    | some x => exact sameBut_header ht s _ _

theorem readNode_writesOnly (fuel : Nat) : WritesOnly W (readNode fuel) := by
  induction fuel with
  | zero => exact SameBut.refl
  | succ fuel ih =>
    intro s
    rw [readNode_succ]
    split
    · exact .refl s
    refine (readOrRaise_writesOnly hd hi 1 _).andThen (fun f t => ?_) s
    split
    · refine ((ih _).afterSameBut (sameBut_header ht t _ _)).andThen fun l u _ hu => ?_
      refine ((ih _).afterSameBut (hu.trans (sameBut_header ht u _ _))).andThen fun r v _ hv => ?_
      exact hv.trans (sameBut_header ht v _ _)
    · exact readLeaf_writesOnly ht hd hi t

theorem hdrReadBody_writesOnly (hv : W .codesValid = true) (hdec : W .decoder = true) : WritesOnly W hdrReadBody := by
  have hstart (s : State) : SameBut W s (startHeader s) := fun p hp => by
    cases p with
    | tree => cases ht.symm.trans hp
    | codesValid => cases hv.symm.trans hp
    | decoder => cases hdec.symm.trans hp
    | _ => rfl
  have hinstall (t : Tree) (s : State) : SameBut W s (s.installTree t) := fun p hp => by
    cases p with
    | tree => cases ht.symm.trans hp
    | decoder => cases hdec.symm.trans hp
    | _ => rfl
  refine WritesOnly.andThen (fun s => (readNode_writesOnly ht hd hi _ _).afterSameBut (hstart s)) fun t s => ?_
  rw [acceptTree_eq]
  split
  · exact hinstall t s
  · exact .refl s

end HeaderReader

/-! ### The decoder -/

section Decoder

variable (hdec : W .decoder = true)
include hdec

theorem sameBut_decoder (s : State) (d : DState) (q : Bits) : SameBut W s { s with dstate := d, dpath := q } :=
  fun p hp => by
    cases p with
    | decoder => cases hdec.symm.trans hp
    | _ => rfl

theorem decRestartBody_writesOnly : WritesOnly W decRestartBody :=
  requireTree_writesOnly.andThen fun _ s => sameBut_decoder hdec s _ _

variable (hr : W .result = true)
include hr

theorem sameBut_decoder_result (s : State) (d : DState) (q : Bits) (r : Word) :
    SameBut W s { s with dstate := d, dpath := q, result := r } := fun p hp => by
  cases p with
  | decoder => cases hdec.symm.trans hp
  | result => cases hr.symm.trans hp
  | _ => rfl

variable (hd : W .draws = true) (ho : W .output = true)
include hd ho

theorem settleLeaf_writesOnly (x : Symbol) : WritesOnly W (settleLeaf x) := fun s => by
  unfold settleLeaf
  split
  · exact sameBut_decoder_result hdec hr s _ _ _
  · exact (writeField_writesOnly hd ho _ _).afterSameBut (sameBut_decoder_result hdec hr s _ _ _)

theorem arriveAt_writesOnly (n : Tree) : WritesOnly W (arriveAt n) := by
  cases n with
  | leaf x => exact settleLeaf_writesOnly hdec hr hd ho x
  | node l r => exact fun s => sameBut_decoder_result hdec hr s _ _ _

variable (hi : W .input = true)
include hi

theorem decStep_writesOnly : WritesOnly W decStep :=
  currentNode_writesOnly.andThen fun n => by
    cases n with
    | leaf x => exact settleLeaf_writesOnly hdec hr hd ho x
    | node l r =>
      exact (readOrRaise_writesOnly hd hi 1 _).andThen fun b s =>
        (currentNode_writesOnly.andThen (arriveAt_writesOnly hdec hr hd ho) _).afterSameBut
          (sameBut_decoder hdec s _ _)

theorem decBitBody_writesOnly : WritesOnly W decBitBody :=
  requireArmed_writesOnly.andThen fun _ => decStep_writesOnly hdec hr hd ho hi

theorem decLoop_writesOnly (again : State → Bool) :
    WritesOnly W fun s => (requireArmed s).andThen fun _ t => repeatWhile (bitsLeft t + 1) (decTurn again) t := by
  have hturn : WritesOnly W (decTurn again) :=
    (decStep_writesOnly hdec hr hd ho hi).andThen fun _ => SameBut.refl
  exact requireArmed_writesOnly.andThen fun _ s => hturn.repeatWhile _ s

theorem decSymBody_writesOnly : WritesOnly W decSymBody := decLoop_writesOnly hdec hr hd ho hi _

theorem decPassBody_writesOnly : WritesOnly W decPassBody := decLoop_writesOnly hdec hr hd ho hi _

end Decoder

theorem inResetBody_writesOnly (hi : W .input = true) : WritesOnly W inResetBody := fun s p hp => by
  cases p with
  | input => cases hi.symm.trans hp
  | _ => rfl

end WritesOnly

/-! ### Commands -/

/-- Every sub-operation of a command writes only what the rules name the command a writer of. -/
theorem commandSteps_writesOnly (i : Instr) : ∀ f ∈ commandSteps i, WritesOnly (mayWrite i) f := by
  cases i with
  | nop => exact List.forall_mem_singleton.mpr SameBut.refl
  | sreset =>
    refine List.forall_mem_singleton.mpr fun s p hp => ?_
    cases p with
    | input | output | draws | host => rfl
    | _ => cases hp
  | clrerr =>
    refine List.forall_mem_singleton.mpr fun s p hp => ?_
    cases p with
    | dropped | error => cases hp
    | _ => rfl
  | freqInit => exact List.forall_mem_singleton.mpr (freqInitBody_writesOnly rfl)
  | freqAdd b => exact List.forall_mem_singleton.mpr (countByte_writesOnly rfl b)
  | freqScan => exact List.forall_mem_singleton.mpr (freqScanBody_writesOnly rfl rfl rfl)
  | freqRead x => exact List.forall_mem_singleton.mpr (freqReadBody_writesOnly rfl x)
  | treeBuild => exact List.forall_mem_singleton.mpr (treeBuildBody_writesOnly rfl rfl rfl)
  | codeDerive => exact List.forall_mem_singleton.mpr (codeDeriveBody_writesOnly rfl rfl)
  | codeRead x k => exact List.forall_mem_singleton.mpr (codeReadBody_writesOnly rfl rfl x k)
  | magicWrite => exact List.forall_mem_singleton.mpr fun s => writeField_writesOnly rfl rfl s.magic s
  | hdrWrite => exact List.forall_mem_singleton.mpr (hdrWriteBody_writesOnly rfl rfl)
  | magicRead => exact List.forall_mem_singleton.mpr (magicReadBody_writesOnly rfl rfl)
  | hdrRead => exact List.forall_mem_singleton.mpr (hdrReadBody_writesOnly rfl rfl rfl rfl rfl)
  | encSym x => exact List.forall_mem_singleton.mpr (encSymBody_writesOnly rfl rfl x)
  | encPass => exact List.forall_mem_singleton.mpr (encPassBody_writesOnly rfl rfl rfl)
  | decRestart => exact List.forall_mem_singleton.mpr (decRestartBody_writesOnly rfl)
  | decBit => exact List.forall_mem_singleton.mpr (decBitBody_writesOnly rfl rfl rfl rfl rfl)
  | decSym => exact List.forall_mem_singleton.mpr (decSymBody_writesOnly rfl rfl rfl rfl rfl)
  | decPass => exact List.forall_mem_singleton.mpr (decPassBody_writesOnly rfl rfl rfl rfl rfl)
  | inReset => exact List.forall_mem_singleton.mpr (inResetBody_writesOnly rfl)
  | outFlush => exact List.forall_mem_singleton.mpr (flushOutput_writesOnly rfl rfl)
  | compress =>
    simp only [commandSteps, compressSteps, List.forall_mem_cons]
    exact ⟨freqInitBody_writesOnly rfl, freqScanBody_writesOnly rfl rfl rfl, treeBuildBody_writesOnly rfl rfl rfl,
      codeDeriveBody_writesOnly rfl rfl, fun s => writeField_writesOnly rfl rfl s.magic s,
      hdrWriteBody_writesOnly rfl rfl, inResetBody_writesOnly rfl, encPassBody_writesOnly rfl rfl rfl,
      flushOutput_writesOnly rfl rfl, by simp⟩
  | decompress =>
    simp only [commandSteps, decompressSteps, List.forall_mem_cons]
    exact ⟨magicReadBody_writesOnly rfl rfl, hdrReadBody_writesOnly rfl rfl rfl rfl rfl,
      decPassBody_writesOnly rfl rfl rfl rfl rfl, flushOutput_writesOnly rfl rfl, by simp⟩

theorem Write.draws_suffix {s t : State} (h : Write s t) : t.portDraws <:+ s.portDraws := by
  cases h with
  | draws n => exact List.drop_suffix n _
  | _ => exact List.suffix_rfl

/-- Draws are only taken from the front. -/
theorem commandSteps_draws_suffix (i : Instr) (d : List Bool) :
    ∀ f ∈ commandSteps i, ∀ s, s.portDraws <:+ d → (f s).EndsIn (·.portDraws <:+ d) :=
  commandSteps_endsIn (·.portDraws <:+ d) (fun _ _ hw h => hw.draws_suffix.trans h) (fun _ h => h) (fun _ h => h) i

theorem State.part_finish (s : State) (p : StatePart) : s.finish.part p = s.part p := by
  cases p <;> rfl

theorem State.part_abort (e : ErrorKind) (s : State) {p : StatePart} (hp : p ≠ .error) :
    (s.abort e).part p = s.part p := by
  cases p with
  | error => exact absurd rfl hp
  | _ => rfl

/-- How a command's rule ends its command writes BUSY alone, or ERR and ERRCODE too. -/
theorem endCommand_parts {r : Run Unit} {P : State → Prop} {t : State} (h : endCommand r = .next t) (hr : r.EndsIn P) :
    ∃ u, P u ∧ t.busy = false ∧ (∀ p, p ≠ .error → t.part p = u.part p) ∧
      (t.part .error = u.part .error ∨ ∃ e, t.part .error = (true, errorCode e)) := by
  obtain ⟨u, rfl, rfl⟩ | ⟨e, u, rfl, rfl⟩ := endCommand_eq_next.mp h
  · exact ⟨u, hr, rfl, fun p _ => u.part_finish p, .inl (u.part_finish .error)⟩
  · exact ⟨u, hr, rfl, fun p => u.part_abort e, .inr ⟨e, rfl⟩⟩

/-- What a command leaves unchanged, part by part; the output is only added to, draws are only taken from the front, and
an error is only set by an abort. -/
theorem exec_frame {i : Instr} {s t : State} (h : exec i s = .next t) :
    t.busy = false ∧ (∀ p, p ≠ .error → mayWrite i p = false → t.part p = s.part p) ∧ s.outBits <+: t.outBits ∧
      t.portDraws <:+ s.portDraws ∧
      (mayWrite i .error = false → t.part .error = s.part .error ∨ ∃ e, t.part .error = (true, errorCode e)) := by
  have hsame := runSteps_writesOnly (commandSteps_writesOnly i) s
  have hout : (runSteps (commandSteps i) s).EndsIn (WroteAfter s.outBits) :=
    runSteps_endsIn (fun f hf => (commandSteps_cutsShort i f hf).wroteAfter _) List.prefix_rfl
  have hdraws : (runSteps (commandSteps i) s).EndsIn (·.portDraws <:+ s.portDraws) :=
    runSteps_endsIn (commandSteps_draws_suffix i _) List.suffix_rfl
  rw [exec_eq_endCommand] at h
  obtain ⟨u, ⟨hu, ho, hd⟩, hb, hp, he⟩ := endCommand_parts h (hsame.and (hout.and hdraws))
  have houtput : t.outBits = u.outBits := hp .output nofun
  have hdrawn : t.portDraws = u.portDraws := hp .draws nofun
  exact ⟨hb, fun p hne hw => (hp p hne).trans (hu p hw), houtput ▸ ho, hdrawn ▸ hd,
    fun hw => he.imp_left fun he => he.trans (hu .error hw)⟩

/-- Settles O58, the frame of `exec_frame` part by part. -/
theorem commandsChangeOnlyWhatTheyName : Obligations.CommandsChangeOnlyWhatTheyName := by
  intro i s t h
  obtain ⟨hbusy, hpart, ⟨c, hc⟩, hdraws, herror⟩ := exec_frame h
  obtain ⟨hmagic, hin, hmoves, hreplies, hfree⟩ :
      t.magic = s.magic ∧ t.inBits = s.inBits ∧ t.hostMoves = s.hostMoves ∧ t.hostReplies = s.hostReplies ∧
        t.freeDraws = s.freeDraws := by
    have hhost : (t.magic, t.inBits, t.hostMoves, t.hostReplies, t.freeDraws) =
      (s.magic, s.inBits, s.hostMoves, s.hostReplies, s.freeDraws) := hpart .host nofun rfl
    simpa using hhost
  refine ⟨hbusy, hmagic, hin, hmoves, hreplies, hfree, ⟨_, List.suffix_iff_eq_drop.mp hdraws⟩, ⟨c, hc.symm⟩,
    fun hs => ?_, fun hs hcl => ?_, hpart .freq nofun, fun hw => ?_, hpart .code nofun, hpart .codesValid nofun,
    fun hw => ?_, hpart .result nofun, hpart .codeBits nofun, hpart .input nofun, hpart .output nofun⟩
  · exact Prod.mk.inj (hpart .latch nofun (beq_false_of_ne hs))
  · have hw : (i == .sreset || i == .clrerr) = false := by simp [hs, hcl]
    refine ⟨hpart .dropped nofun hw, (herror hw).imp Prod.mk.inj fun ⟨e, he⟩ => ?_⟩
    obtain ⟨herr, hcode⟩ := Prod.mk.inj he
    exact ⟨herr, e, hcode⟩
  · have htree : (t.tree, t.heap, t.hdrStack, t.hdrCount) = (s.tree, s.heap, s.hdrStack, s.hdrCount) :=
      hpart .tree nofun hw
    simpa using htree
  · exact Prod.mk.inj (hpart .decoder nofun hw)

end Sys2Proof.Machine
end

section
/-! PROOF. The bound on the port operations of a command (R105, log 17): each uses up one of the environment's draws. A
loop is paid for by a measure that every turn which goes round again makes smaller: the bytes or the bits ahead, or the
depth of the tree below DPATH. -/

namespace Sys2Proof.Machine

/-! ### Draws used up -/

/-- From `s` to `t` at most `k` of the environment's draws are used up. -/
def Spent (k : Nat) (s t : State) : Prop := s.portDraws.length ≤ t.portDraws.length + k

section Spent

variable {α β : Type} {j k : Nat} {s t u : State} {r : Run α} {f : State → Run α}

theorem Spent.of_draws_eq (h : t.portDraws = s.portDraws) : Spent k s t := by
  simp [Spent, h]

theorem Spent.of_draws_eq_tail (h : t.portDraws = s.portDraws.tail) : Spent 1 s t := by
  rw [Spent, h, List.length_tail]
  omega

theorem Spent.trans (h : Spent j s t) (h' : Spent k t u) : Spent (j + k) s u := by
  unfold Spent at *
  omega

theorem Spent.mono (h : Spent j s t) (hjk : j ≤ k) : Spent k s t := Nat.le_trans h (Nat.add_le_add_left hjk _)

theorem Run.EndsIn.spentMono (h : r.EndsIn (Spent j s)) (hjk : j ≤ k) : r.EndsIn (Spent k s) :=
  h.mono fun _ ht => ht.mono hjk

theorem Run.EndsIn.andThenSpent {g : α → State → Run β} (hr : r.EndsIn (Spent j s))
    (hg : ∀ a t, r = .done a t → (g a t).EndsIn (Spent k t)) : (r.andThen g).EndsIn (Spent (j + k) s) := by
  cases r with
  | done a t => exact (hg a t rfl).mono fun _ hu => Spent.trans hr hu
  | raised e t => exact Spent.mono hr (Nat.le_add_right j k)
  | stuck x => trivial

/-- What holds wherever a run ends holds at its normal end. -/
theorem Run.EndsIn.of_done {P : State → Prop} {a : α} (h : r.EndsIn P) (hr : r = .done a t) : P t := by
  rw [hr] at h
  exact h

/-- A part that is no writer of the draws has no port operation. -/
theorem WritesOnly.spent {W : StatePart → Bool} (h : WritesOnly W f) (hd : W .draws = false) (s : State) :
    (f s).EndsIn (Spent k s) := (h s).mono fun _ ht => .of_draws_eq (ht .draws hd)

/-- A loop of which every turn that goes round again pays for its port operations with the measure `μ`. -/
theorem repeatWhile_spent {P : State → Prop} {f : State → Run Bool} (μ : State → Nat)
    (hturn : ∀ s, P s → (f s).EndsIn (Spent (μ s + k) s))
    (hagain : ∀ s t, P s → f s = .done true t → P t ∧ ∃ j, Spent j s t ∧ μ t + j ≤ μ s) (n : Nat) (hs : P s) :
    (repeatWhile n f s).EndsIn (Spent (μ s + k) s) := by
  induction n generalizing s with
  | zero => trivial
  | succ n ih =>
    have hfirst := hturn s hs
    rw [repeatWhile_succ]
    cases hr : f s with
    | stuck x => trivial
    | raised e t =>
      rw [hr] at hfirst
      exact hfirst
    | done again t =>
      cases again with
      | false => exact hfirst.of_done hr
      | true =>
        obtain ⟨hPt, j, hj, hμ⟩ := hagain s t hs hr
        exact (ih hPt).mono fun u hu => (hj.trans hu).mono (by omega)

/-- Sub-operations one after another use up what each of them does. -/
theorem runSteps_spent {P : State → Prop} {fs : List (State → Run Unit)} {ks : List Nat}
    (h : List.Forall₂ (fun f k => ∀ s, P s → (f s).EndsIn (Spent k s)) fs ks)
    (hP : ∀ f ∈ fs, ∀ s, P s → (f s).EndsIn P) (hs : P s) : (runSteps fs s).EndsIn (Spent ks.sum s) := by
  induction h generalizing s with
  | nil => exact Spent.of_draws_eq rfl
  | @cons f k fs ks hf _ ih =>
    rw [List.sum_cons]
    exact (hf s hs).andThenSpent fun _ t ht =>
      ih (fun g hg => hP g (by simp [hg])) ((hP f (by simp) s hs).of_done ht)

/-! ### The shared operations -/

theorem readOrBreak_spent (n : Nat) (s : State) : (readOrBreak n s).EndsIn (Spent 1 s) := by
  obtain ⟨h, -⟩ | ⟨h, -⟩ | ⟨h, -⟩ := readOrBreak_cases n s <;> rw [h] <;> exact Spent.of_draws_eq_tail rfl

theorem readOrRaise_spent (n : Nat) (e : ErrorKind) (s : State) : (readOrRaise n e s).EndsIn (Spent 1 s) := by
  obtain ⟨h, -⟩ | ⟨h, -⟩ | ⟨h, -⟩ := readOrRaise_cases n e s <;> rw [h] <;> exact Spent.of_draws_eq_tail rfl

theorem writeField_spent {n : Nat} (v : BitVec n) (s : State) : (writeField v s).EndsIn (Spent 1 s) := by
  obtain ⟨h, -⟩ | ⟨h, -⟩ := writeField_cases v s <;> rw [h] <;> exact Spent.of_draws_eq_tail rfl

theorem flushOutput_spent (s : State) : (flushOutput s).EndsIn (Spent 1 s) := by
  obtain ⟨h, -⟩ | ⟨h, -⟩ := flushOutput_cases s <;> rw [h] <;> exact Spent.of_draws_eq_tail rfl

theorem writeFields_spent (fs : List Bits) (s : State) : (writeFields fs s).EndsIn (Spent fs.length s) := by
  induction fs generalizing s with
  | nil => exact Spent.of_draws_eq rfl
  | cons f fs ih =>
    rw [List.length_cons, Nat.add_comm]
    exact (writeField_spent _ s).andThenSpent fun _ t _ => ih t

theorem writeBits_spent (c : Bits) (s : State) : (writeBits c s).EndsIn (Spent c.length s) := by
  obtain h | ⟨j, hj, h⟩ := writeBits_cases c s <;> rw [h] <;>
    simp only [Run.endsIn_done, Run.endsIn_raised, Spent, List.length_drop] <;> omega

/-! ### FREQ_SCAN and the encoder -/

theorem freqScanTurn_spent (s : State) : (freqScanTurn s).EndsIn (Spent 1 s) :=
  (readOrBreak_spent 8 s).andThenSpent (k := 0) fun b t _ => by
    cases b with
    | none => exact Spent.of_draws_eq rfl
    | some b =>
      have hcount : WritesOnly (mayWrite (.freqAdd b)) fun t => (countByte b t).andThen fun _ u => .done true u :=
        (countByte_writesOnly rfl b).andThen fun _ => SameBut.refl
      exact hcount.spent rfl t

theorem freqScanBody_spent (s : State) : (freqScanBody s).EndsIn (Spent (bitsLeft s / 8 + 1) s) :=
  repeatWhile_spent (P := fun _ => True) (bitsLeft · / 8)
    (fun s _ => (freqScanTurn_spent s).spentMono (Nat.le_add_left 1 _))
    (fun s _ _ h => ⟨trivial, 1, (freqScanTurn_spent s).of_done h, freqScanTurn_again h⟩) _ trivial

/-- No code is longer than `MAX_CODE_LEN` (R42). -/
def CodesShort (s : State) : Prop := ∀ x c, s.codeFor x = some c → c.length ≤ 256

/-- The codes of a valid table are paths of a tree that TREE may hold. -/
theorem Inv.codesShort (hi : Inv s) (hv : s.codesValid = true) : CodesShort s := by
  obtain ⟨t, ht, hcode⟩ := hi.codesCurrent hv
  intro x c hc
  rw [State.codeFor, hcode, getElem_codesOf] at hc
  exact (length_le_treeDepth (subtree_of_lastPath hc)).trans (treeDepth_le_of_legalTree (hi.treeLegal t ht))

theorem CodesShort.of_code_eq (hs : CodesShort s) (h : t.code = s.code) : CodesShort t := fun x c hc =>
  hs x c (by rwa [State.codeFor, h] at hc)

theorem CodesShort.emitSymbol_spent (hs : CodesShort s) (x : Symbol) : (emitSymbol x s).EndsIn (Spent 256 s) := by
  obtain ⟨h, -⟩ | ⟨c, h, hc⟩ := emitSymbol_cases x s <;> rw [h]
  · exact Spent.of_draws_eq rfl
  · exact (writeBits_spent c s).spentMono (hs x c hc)

theorem encSymBody_spent (hi : Inv s) (v : BitVec 9) : (encSymBody v s).EndsIn (Spent 256 s) := by
  unfold encSymBody requireSymbol
  cases symbolOf v with
  | none => exact Spent.of_draws_eq rfl
  | some x =>
    obtain ⟨h, -⟩ | ⟨h, hv⟩ := requireCodes_cases s <;> simp only [Run.andThen_done, h]
    · exact Spent.of_draws_eq rfl
    · exact (hi.codesShort hv).emitSymbol_spent x

theorem CodesShort.encPassTurn_spent (hs : CodesShort s) : (encPassTurn s).EndsIn (Spent 257 s) :=
  (readOrBreak_spent 8 s).andThenSpent (k := 256) fun b t ht => by
    cases b with
    | none => exact Spent.of_draws_eq rfl
    | some b =>
      have hread : SameBut (mayWrite .encPass) s t := (readOrBreak_writesOnly rfl rfl 8 s).of_done ht
      have hemit := (hs.of_code_eq (hread .code rfl)).emitSymbol_spent (byteSymbol b)
      exact hemit.andThenSpent (k := 0) fun _ _ _ => Spent.of_draws_eq rfl

/-- A turn that finds no byte ahead has the one port operation that says so. -/
theorem encPassTurn_spent_of_short (h : bitsLeft s < 8) : (encPassTurn s).EndsIn (Spent 1 s) := by
  unfold encPassTurn
  obtain ⟨hr, -⟩ | ⟨hr, -⟩ | ⟨-, -, hn⟩ := readOrBreak_cases 8 s
  · rw [hr]
    exact Spent.of_draws_eq_tail rfl
  · rw [hr]
    exact Spent.of_draws_eq_tail rfl
  · unfold bitsLeft at h
    omega

/-- ENC_PASS's loop has a read and a code for each byte ahead, and the read that finds none. -/
theorem CodesShort.encPassLoop_spent (hs : CodesShort s) (n : Nat) :
    (repeatWhile n encPassTurn s).EndsIn (Spent (257 * (bitsLeft s / 8) + 1) s) := by
  refine repeatWhile_spent (P := CodesShort) (fun s => 257 * (bitsLeft s / 8)) (fun s hs => ?_)
    (fun s t hs h => ?_) n hs
  · obtain hlt | hge := Nat.lt_or_ge (bitsLeft s) 8
    · exact (encPassTurn_spent_of_short hlt).spentMono (Nat.le_add_left 1 _)
    · exact hs.encPassTurn_spent.spentMono (by omega)
  · have hturn : SameBut (mayWrite .encPass) s t := (encPassTurn_writesOnly rfl rfl rfl s).of_done h
    have hless := encPassTurn_again h
    exact ⟨hs.of_code_eq (hturn .code rfl), 257, hs.encPassTurn_spent.of_done h, by omega⟩

theorem encPassBody_spent (hi : Inv s) : (encPassBody s).EndsIn (Spent (257 * (bitsLeft s / 8 + 1)) s) := by
  unfold encPassBody
  obtain ⟨h, -⟩ | ⟨h, hv⟩ := requireCodes_cases s <;> rw [h]
  · exact Spent.of_draws_eq rfl
  have hs := hi.codesShort hv
  refine ((hs.encPassLoop_spent _).andThenSpent (k := 256) fun _ t ht => ?_).spentMono (by omega)
  have hloop : SameBut (mayWrite .encPass) s t :=
    ((encPassTurn_writesOnly rfl rfl rfl).repeatWhile _ s).of_done ht
  exact (hs.of_code_eq (hloop .code rfl)).emitSymbol_spent _

/-! ### The header codec -/

/-- The header of a tree that TREE may hold has at most 513 flags and 257 symbols. -/
theorem length_headerFields_le {t : Tree} (h : legalTree t = true) : (headerFields t).length ≤ 770 := by
  obtain ⟨hsize, -⟩ := legalTree_iff.mp h
  have hnodes := treeSize_add_one t
  have hinternal := treeInternal_add_one t
  rw [length_headerFields]
  omega

theorem hdrWriteBody_spent (hi : Inv s) : (hdrWriteBody s).EndsIn (Spent 770 s) := by
  cases ht : s.tree with
  | none =>
    have hbody : hdrWriteBody s = .raised .noTree s := by simp [hdrWriteBody, requireTree, ht]
    rw [hbody]
    exact Spent.of_draws_eq rfl
  | some t =>
    rw [hdrWriteBody_eq ht]
    exact (writeFields_spent _ s).spentMono (length_headerFields_le (hi.treeLegal t ht))

theorem magicReadBody_spent (s : State) : (magicReadBody s).EndsIn (Spent 1 s) :=
  (readOrRaise_spent 32 _ s).andThenSpent (k := 0) fun _ t _ => by split <;> exact Spent.of_draws_eq rfl

/-- The draws and the counted nodes, weighed so that a node of a tree costs three halves of a draw, and a whole tree one
half more: there is a flag for each node, and a symbol for each leaf, of which there is one more than there are internal
nodes. -/
def headerBudget (s : State) : Nat := 2 * s.portDraws.length + 3 * s.hdrCount.toNat

@[simp] theorem headerBudget_startHeader (s : State) : headerBudget (startHeader s) = 2 * s.portDraws.length := rfl

@[simp] theorem headerBudget_pushPending (s : State) : headerBudget (pushPending s) = headerBudget s := rfl

@[simp] theorem headerBudget_setPendingLeft (l : Tree) (s : State) :
    headerBudget (setPendingLeft l s) = headerBudget s := rfl

@[simp] theorem headerBudget_popPending (s : State) : headerBudget (popPending s) = headerBudget s := rfl

/-- Counting a node adds its cost. -/
theorem headerBudget_countNode (hn : s.hdrCount.toNat < 513) :
    headerBudget (countNode s) = headerBudget s + 3 ∧ (countNode s).hdrCount.toNat ≤ 513 := by
  obtain ⟨hinc, hle⟩ := toNat_succ_of_ne_nodeCap hn.le fun he => by simp [he] at hn
  refine ⟨?_, hle⟩
  rw [headerBudget, countNode_hdrCount, hinc, countNode_portDraws, headerBudget]
  omega

/-- A part of the header reader started with the budget `b` ends with it but for `m`, and where it raises it has spent
no more than a tree with all the nodes there is room for. -/
def WithinBudget (b m : Nat) (r : Run α) : Prop :=
  match r with
  | .done _ t => b ≤ headerBudget t + m
  | .raised _ t => b ≤ 2 * t.portDraws.length + (3 * 513 + 1)
  | .stuck _ => True

theorem WithinBudget.andThen {b m m' : Nat} {g : α → State → Run β} (hr : WithinBudget b m r)
    (hg : ∀ a t, r = .done a t → b ≤ headerBudget t + m → WithinBudget b m' (g a t)) :
    WithinBudget b m' (r.andThen g) := by
  cases r with
  | done a t => exact hg a t rfl hr
  | raised e t => exact hr
  | stuck x => trivial

theorem readOrRaise_withinBudget {b m : Nat} (hb : b ≤ headerBudget s + m) (hm : m ≤ 2) (hn : s.hdrCount.toNat < 513)
    (n : Nat) (e : ErrorKind) : WithinBudget b (m + 2) (readOrRaise n e s) := by
  unfold headerBudget at hb
  obtain ⟨h, -⟩ | ⟨h, -⟩ | ⟨h, -⟩ := readOrRaise_cases n e s <;> rw [h] <;>
    simp only [WithinBudget, headerBudget, List.length_tail] <;> omega

theorem WithinBudget.of_succ {b m : Nat} (h : WithinBudget (b + 1) (m + 1) r) : WithinBudget b m r := by
  cases r with
  | done a t => exact Nat.le_of_succ_le_succ h
  | raised e t => exact Nat.le_of_succ_le h
  | stuck x => trivial

theorem hdrCount_of_readOrRaise {n : Nat} {e : ErrorKind} {v : BitVec n} (h : readOrRaise n e s = .done v t) :
    t.hdrCount = s.hdrCount := by rw [readOrRaise_eq_done h]

theorem readLeaf_withinBudget {b : Nat} (hb : b ≤ headerBudget s + 2) (hn : s.hdrCount.toNat < 513) :
    WithinBudget b 1 (readLeaf s) :=
  (readOrRaise_withinBudget hb (Nat.le_refl _) hn 9 _).andThen fun v t ht hbt => by
    have hnt : t.hdrCount.toNat < 513 := hdrCount_of_readOrRaise ht ▸ hn
    cases symbolOf v with
    | none =>
      simp only [WithinBudget, headerBudget] at hbt ⊢
      omega
    | some x =>
      obtain ⟨hcount, -⟩ := headerBudget_countNode hnt
      simp only [WithinBudget, hcount]
      omega

theorem readNode_withinBudget (fuel : Nat) {b : Nat} (hb : b ≤ headerBudget s) (hs : s.hdrCount.toNat ≤ 513) :
    WithinBudget b 1 (readNode fuel s) := by
  induction fuel generalizing s b with
  | zero =>
    simp only [readNode, WithinBudget, headerBudget] at hb ⊢
    omega
  | succ fuel ih =>
    rw [readNode_succ]
    split
    · simp only [WithinBudget, headerBudget] at hb ⊢
      omega
    next hne =>
      have hn : s.hdrCount.toNat < 513 := lt_of_le_of_ne hs fun he => hne (BitVec.eq_of_toNat_eq he)
      refine (readOrRaise_withinBudget (m := 0) hb (Nat.zero_le _) hn 1 _).andThen fun f t ht hbt => ?_
      have hnt : t.hdrCount.toNat < 513 := hdrCount_of_readOrRaise ht ▸ hn
      split
      · obtain ⟨hcount, hle⟩ := headerBudget_countNode hnt
        have hleft : WithinBudget (b + 1) 1 (readNode fuel (pushPending (countNode t))) :=
          ih (by rw [headerBudget_pushPending, hcount]; omega) hle
        refine hleft.of_succ.andThen fun l u hl hbu => ?_
        obtain ⟨-, -, -, hu⟩ := readNode_eq_done hl hle
        exact (ih (s := setPendingLeft l u) hbu hu).andThen fun r v _ hbv => hbv
      · exact readLeaf_withinBudget hbt hnt

theorem hdrReadBody_spent (s : State) : (hdrReadBody s).EndsIn (Spent 770 s) := by
  have hroot : WithinBudget (2 * s.portDraws.length) 1 (readNode (Config.nodeCap + 1) (startHeader s)) :=
    readNode_withinBudget _ (by simp) (by simp)
  have hread : (readNode (Config.nodeCap + 1) (startHeader s)).EndsIn (Spent 770 s) := by
    cases hr : readNode (Config.nodeCap + 1) (startHeader s) <;> rw [hr] at hroot
    case stuck x => trivial
    case raised e u =>
      simp only [WithinBudget, Run.endsIn_raised, Spent] at hroot ⊢
      omega
    case done t u =>
      obtain ⟨-, -, -, hu⟩ := readNode_eq_done hr (by simp)
      simp only [WithinBudget, headerBudget, Run.endsIn_done, Spent] at hroot ⊢
      omega
  exact hread.andThenSpent (k := 0) fun t u _ => by
    rw [acceptTree_eq]
    split <;> exact Spent.of_draws_eq rfl

/-! ### The decoder -/

theorem settleLeaf_spent (x : Symbol) (s : State) : (settleLeaf x s).EndsIn (Spent 1 s) := by
  unfold settleLeaf
  split
  · exact Spent.of_draws_eq rfl
  · exact writeField_spent _ { s with dpath := [], dstate := .atRoot, result := leafResult x }

theorem arriveAt_spent (n : Tree) (s : State) : (arriveAt n s).EndsIn (Spent 1 s) := by
  cases n with
  | leaf x => exact settleLeaf_spent x s
  | node l r => exact Spent.of_draws_eq rfl

/-- A step has a read and a write at most. -/
theorem decStep_spent (s : State) : (decStep s).EndsIn (Spent 2 s) := by
  unfold decStep
  obtain h | ⟨t, n, h, -⟩ := currentNode_cases s <;> rw [h]
  · trivial
  cases n with
  | leaf x => exact (settleLeaf_spent x s).spentMono (by decide)
  | node l r =>
    refine (readOrRaise_spent 1 _ s).andThenSpent (k := 1) fun b u _ => ?_
    obtain h | ⟨t, m, h, -⟩ := currentNode_cases { u with dpath := u.dpath ++ [b == 1] } <;> rw [h]
    · trivial
    · exact arriveAt_spent m _

/-- At the sentinel's leaf a step has no port operation. -/
theorem decStep_spent_of_eos (h : NodeAt s (.leaf Config.eos)) : (decStep s).EndsIn (Spent k s) := by
  rw [decStep_leaf h, settleLeaf_eos]
  exact Spent.of_draws_eq rfl

/-- With no bit ahead a step at an internal node has the one port operation that says so. -/
theorem decStep_spent_of_short {l r : Tree} (h : NodeAt s (.node l r)) (hn : bitsLeft s = 0) :
    (decStep s).EndsIn (Spent 1 s) := by
  by_cases hf : s.portDraws.head? = some true
  · rw [decStep_failing h hf]
    exact Spent.of_draws_eq_tail rfl
  · rw [decStep_short h hf (Nat.sub_eq_zero_iff_le.mp hn)]
    exact Spent.of_draws_eq_tail rfl

theorem decTurn_spent {again : State → Bool} (h : (decStep s).EndsIn (Spent k s)) :
    (decTurn again s).EndsIn (Spent k s) := h.andThenSpent (k := 0) fun _ _ _ => Spent.of_draws_eq rfl

/-- The preconditions of R231 have no port operation. -/
theorem requireArmed_andThen_spent {f : State → Run Unit} (hi : Inv s)
    (hf : ArmedInv s → (f s).EndsIn (Spent k s)) :
    ((requireArmed s).andThen fun _ t => f t).EndsIn (Spent k s) := by
  cases hd : s.dstate with
  | unarmed =>
    rw [requireArmed_of_unarmed hd]
    exact Spent.of_draws_eq rfl
  | done =>
    rw [requireArmed_of_done hd]
    exact Spent.of_draws_eq rfl
  | atRoot =>
    rw [requireArmed_of_armed (.inl hd)]
    exact hf ⟨hi, .inl hd⟩
  | midPath =>
    rw [requireArmed_of_armed (.inr hd)]
    exact hf ⟨hi, .inr hd⟩

theorem decBitBody_spent (hi : Inv s) : (decBitBody s).EndsIn (Spent 2 s) :=
  requireArmed_andThen_spent hi fun _ => decStep_spent s

/-- DEC_PASS's loop has a read and a write for each bit ahead at most, and the read that finds none. -/
theorem decPassBody_spent (hi : Inv s) : (decPassBody s).EndsIn (Spent (2 * bitsLeft s + 1) s) := by
  have hstop (u : State) (_ : u.result[16] = true) (hd : u.dstate = .done) : (u.dstate != .done) = false := by simp [hd]
  refine requireArmed_andThen_spent (f := fun t => repeatWhile (bitsLeft t + 1) decPassTurn t) hi fun harm =>
    repeatWhile_spent (P := ArmedInv) (2 * bitsLeft ·) (fun s hs => decTurn_spent ?_) (fun s t hs h => ?_) _ harm
  · obtain ⟨l, r, hn⟩ | hn := hs.1.nodeAt hs.2
    · obtain hzero | hpos := Nat.eq_zero_or_pos (bitsLeft s)
      · exact (decStep_spent_of_short hn hzero).spentMono (Nat.le_add_left 1 _)
      · exact (decStep_spent s).spentMono (by omega)
    · exact decStep_spent_of_eos hn
  · obtain ⟨hs', hless⟩ := decTurn_again hstop hs h
    exact ⟨hs', 2, (decTurn_spent (decStep_spent s)).of_done h, by omega⟩

/-! ### DEC_SYM -/

/-- The depth of the tree below DPATH, 0 where there is no node. -/
def depthBelow (s : State) : Nat := ((s.tree.bind (subtree · s.dpath)).map treeDepth).getD 0

theorem depthBelow_of_nodeAt {n : Tree} (h : NodeAt s n) : depthBelow s = treeDepth n := by
  obtain ⟨t, ht, hn⟩ := h
  simp [depthBelow, ht, hn]

theorem treeDepth_subtree_le {t n : Tree} {c : Bits} (h : subtree t c = some n) : treeDepth n ≤ treeDepth t := by
  induction c generalizing t with
  | nil =>
    obtain rfl := Option.some.inj ((subtree_nil t).symm.trans h)
    exact Nat.le_refl _
  | cons b c ih =>
    cases t with
    | leaf y => simp at h
    | node l r =>
      rw [subtree_node_cons] at h
      have hchild : treeDepth (bif b then r else l) ≤ max (treeDepth l) (treeDepth r) := by cases b <;> simp
      exact (ih h).trans (hchild.trans (Nat.le_succ _))

theorem ArmedInv.depthBelow_le (h : ArmedInv s) : depthBelow s ≤ 256 := by
  obtain ⟨n, hn⟩ : ∃ n, NodeAt s n := by
    obtain ⟨l, r, hn⟩ | hn := h.1.nodeAt h.2 <;> exact ⟨_, hn⟩
  rw [depthBelow_of_nodeAt hn]
  obtain ⟨t, ht, hsub⟩ := hn
  exact (treeDepth_subtree_le hsub).trans (treeDepth_le_of_legalTree (h.1.treeLegal t ht))

/-- A step from an internal node that settles no leaf has read one bit and stands one level deeper. -/
theorem decStep_descends {l r : Tree} (h : NodeAt s (.node l r)) (hu : decStep s = .done () u)
    (hr : u.result.getLsbD 16 = false) : Spent 1 s u ∧ depthBelow u + 1 ≤ depthBelow s := by
  have hp : s.portDraws.head? ≠ some true := fun hf => by
    cases (decStep_failing h hf).symm.trans hu
  have hlt : s.inPos < s.inBits.length := lt_of_not_ge fun hn => by
    cases (decStep_short h hp hn).symm.trans hu
  rw [decStep_bit h hp (List.drop_eq_getElem_cons hlt)] at hu
  have hchild : NodeAt { afterRead 1 s with dpath := s.dpath ++ [s.inBits[s.inPos]] }
      (bif s.inBits[s.inPos] then r else l) := h.child rfl rfl
  have hdepth : treeDepth (bif s.inBits[s.inPos] then r else l) + 1 ≤ treeDepth (.node l r) := by
    cases s.inBits[s.inPos] <;> simp [treeDepth]
  cases hn : (bif s.inBits[s.inPos] then r else l) with
  | leaf x =>
    rw [hn] at hu
    rw [settleLeaf_eq_done hu] at hr
    simp at hr
  | node l' r' =>
    rw [hn] at hu hchild hdepth
    cases hu
    have hat : depthBelow { afterRead 1 s with
        dpath := s.dpath ++ [s.inBits[s.inPos]], dstate := .midPath, result := 0 } = treeDepth (.node l' r') :=
      depthBelow_of_nodeAt hchild
    exact ⟨.of_draws_eq_tail rfl, by rw [depthBelow_of_nodeAt h]; exact hat ▸ hdepth⟩

/-- DEC_SYM's loop has a read for each level below DPATH at most, and one write. -/
theorem decSymBody_spent (hi : Inv s) : (decSymBody s).EndsIn (Spent 257 s) := by
  have hstop (u : State) (hr : u.result[16] = true) (_ : u.dstate = .done) : (!u.result.getLsbD 16) = false := by
    simp [hr]
  refine requireArmed_andThen_spent (f := fun t => repeatWhile (bitsLeft t + 1) decSymTurn t) hi fun harm =>
    (repeatWhile_spent (P := ArmedInv) (k := 1) depthBelow (fun s hs => decTurn_spent ?_) (fun s t hs h => ?_) _
      harm).spentMono (Nat.succ_le_succ harm.depthBelow_le)
  · obtain ⟨l, r, hn⟩ | hn := hs.1.nodeAt hs.2
    · rw [depthBelow_of_nodeAt hn, treeDepth]
      exact (decStep_spent s).spentMono (by omega)
    · exact decStep_spent_of_eos hn
  · obtain ⟨hs', -⟩ := decTurn_again hstop hs h
    obtain ⟨_, u, hu, h⟩ := Run.andThen_eq_done.mp h
    injection h with hagain hut
    subst hut
    obtain ⟨l, r, hn⟩ | hn := hs.1.nodeAt hs.2
    · obtain ⟨hspent, hdepth⟩ := decStep_descends hn hu (by simpa using hagain)
      exact ⟨hs', 1, hspent, hdepth⟩
    · rw [decStep_leaf hn] at hu
      rw [settleLeaf_eq_done hu] at hagain
      simp at hagain

end Spent

/-! ### Commands -/

theorem commandSteps_inv_sameHost (i : Instr) (r : State) :
    ∀ f ∈ commandSteps i, ∀ s, Inv s ∧ SameHost r s → (f s).EndsIn fun t => Inv t ∧ SameHost r t :=
  commandSteps_endsIn _ (fun _ _ hw h => ⟨hw.inv h.1, hw.sameHost h.2⟩)
    (fun _ h => ⟨inv_resetEngine h.1.cursorInside, h.2⟩) (fun _ h => ⟨h.1.clearError, h.2⟩) i

theorem SameHost.bitsLeft_le {s t : State} (h : SameHost s t) : bitsLeft t ≤ s.inBits.length := by
  obtain ⟨-, hin, -⟩ := h
  rw [bitsLeft, hin]
  exact Nat.sub_le _ _

/-- COMPRESS scans the bytes ahead, and after InReset encodes those of the whole input. -/
theorem compress_spent {s : State} (hi : Inv s) :
    (runSteps compressSteps s).EndsIn (Spent (workBound .compress (bitsLeft s) s.inBits.length) s) := by
  have hkeeps := commandSteps_inv_sameHost .compress s
  have hinit : Inv { s with freq := freqInitial } ∧ SameHost s { s with freq := freqInitial } :=
    hkeeps freqInitBody (by simp [commandSteps, compressSteps]) s ⟨hi, rfl, rfl, rfl, rfl, rfl⟩
  have hrest {t : State} (ht : Inv t ∧ SameHost s t) : (runSteps (compressSteps.drop 2) t).EndsIn
      (Spent [0, 0, 1, 2826, 0, 257 * (s.inBits.length / 8 + 1), 1].sum t) := by
    refine runSteps_spent ?_ (fun f hf => hkeeps f (List.mem_of_mem_drop hf)) ht
    simp only [compressSteps, List.drop_succ_cons, List.drop_zero, List.forall₂_cons, List.forall₂_nil_left_iff]
    refine ⟨fun t _ => ?_, fun t _ => ?_, fun t _ => writeField_spent _ t, fun t ht => ?_, fun t _ => ?_,
      fun t ht => ?_, fun t _ => flushOutput_spent t, trivial⟩
    · exact (treeBuildBody_writesOnly (W := mayWrite .treeBuild) rfl rfl rfl).spent rfl t
    · exact (codeDeriveBody_writesOnly (W := mayWrite .codeDerive) rfl rfl).spent rfl t
    · exact (hdrWriteBody_spent ht.1).spentMono (by decide)
    · exact (inResetBody_writesOnly (W := mayWrite .inReset) rfl).spent rfl t
    · have hleft := ht.2.bitsLeft_le
      exact (encPassBody_spent ht.1).spentMono (by omega)
  have hscan : (freqScanBody { s with freq := freqInitial }).EndsIn (Spent (bitsLeft s / 8 + 1) s) :=
    freqScanBody_spent { s with freq := freqInitial }
  have hall := hscan.andThenSpent fun _ t ht =>
    hrest ((hkeeps freqScanBody (by simp [commandSteps, compressSteps]) _ hinit).of_done ht)
  refine Run.EndsIn.spentMono hall ?_
  simp only [workBound, List.sum_cons, List.sum_nil]
  omega

/-- DECOMPRESS gives no input back, so DEC_PASS has no more bits ahead than the command had. -/
theorem decompress_spent {s : State} (hi : Inv s) :
    (runSteps decompressSteps s).EndsIn (Spent (workBound .decompress (bitsLeft s) s.inBits.length) s) := by
  have hkeeps (f) (hf : f ∈ decompressSteps) (t : State) (ht : (Inv t ∧ SameHost s t) ∧ s.inPos ≤ t.inPos) :
      (f t).EndsIn fun u => (Inv u ∧ SameHost s u) ∧ s.inPos ≤ u.inPos :=
    (commandSteps_inv_sameHost .decompress s f hf t ht.1).and
      (((decompressSteps_abandonable f hf).advances t).mono fun _ hu => ht.2.trans hu)
  have hall := runSteps_spent (ks := [1, 770, 2 * bitsLeft s + 1, 1]) (fs := decompressSteps) ?_ hkeeps
    ⟨⟨hi, rfl, rfl, rfl, rfl, rfl⟩, Nat.le_refl _⟩
  · refine Run.EndsIn.spentMono hall ?_
    simp only [workBound, List.sum_cons, List.sum_nil]
    omega
  · simp only [decompressSteps, List.forall₂_cons, List.forall₂_nil_left_iff]
    refine ⟨fun t _ => magicReadBody_spent t, fun t _ => hdrReadBody_spent t, fun t ht => ?_,
      fun t _ => flushOutput_spent t, trivial⟩
    obtain ⟨⟨hinv, -, hin, -⟩, hpos⟩ := ht
    refine (decPassBody_spent hinv).spentMono ?_
    rw [bitsLeft, bitsLeft, hin]
    omega

theorem command_spent (i : Instr) {s : State} (hi : Inv s) :
    (runSteps (commandSteps i) s).EndsIn (Spent (workBound i (bitsLeft s) s.inBits.length) s) := by
  have single {f : State → Run Unit} {j k : Nat} (h : (f s).EndsIn (Spent j s)) (hjk : j ≤ k) :
      (runSteps [f] s).EndsIn (Spent k s) := by
    rw [runSteps_singleton]
    exact h.spentMono hjk
  have noPorts {k : Nat} {i : Instr} (hd : mayWrite i .draws = false) :
      (runSteps (commandSteps i) s).EndsIn (Spent k s) :=
    (runSteps_writesOnly (commandSteps_writesOnly i)).spent hd s
  cases i with
  | freqScan => exact single (freqScanBody_spent s) (Nat.le_refl _)
  | magicWrite => exact single (writeField_spent _ s) (Nat.le_refl _)
  | hdrWrite => exact single (hdrWriteBody_spent hi) (by simp [workBound])
  | magicRead => exact single (magicReadBody_spent s) (Nat.le_refl _)
  | hdrRead => exact single (hdrReadBody_spent s) (Nat.le_refl _)
  | encSym x => exact single (encSymBody_spent hi x) (Nat.le_refl _)
  | encPass => exact single (encPassBody_spent hi) (by rw [workBound]; omega)
  | decBit => exact single (decBitBody_spent hi) (Nat.le_refl _)
  | decSym => exact single (decSymBody_spent hi) (Nat.le_refl _)
  | decPass => exact single (decPassBody_spent hi) (by rw [workBound]; omega)
  | outFlush => exact single (flushOutput_spent s) (Nat.le_refl _)
  | compress => exact compress_spent hi
  | decompress => exact decompress_spent hi
  | _ => exact noPorts rfl

/-! ### A leaf root -/

theorem decPassBody_eos {s : State} (harm : s.dstate = .atRoot ∨ s.dstate = .midPath)
    (h : NodeAt s (.leaf Config.eos)) : decPassBody s = settleLeaf Config.eos s := by
  rw [decPassBody_of_armed harm, decPassTurn_eq, repeatWhile_decTurn_succ, decStep_leaf h, settleLeaf_eos]
  rfl

/-- At the sentinel's leaf the decoder's three commands are the one step that settles it. -/
theorem exec_of_eos {i : Instr} {s : State} (harm : s.dstate = .atRoot ∨ s.dstate = .midPath)
    (h : NodeAt s (.leaf Config.eos)) (hcmd : i = .decPass ∨ i = .decBit ∨ i = .decSym) :
    exec i s = endCommand (settleLeaf Config.eos s) := by
  obtain rfl | rfl | rfl := hcmd
  · exact congrArg endCommand (decPassBody_eos harm h)
  · exact congrArg endCommand ((decBitBody_of_armed harm).trans (decStep_leaf h))
  · exact congrArg endCommand (decSymBody_leaf harm h)

theorem Inv.nodeAt_eos_of_leafRoot {s : State} {x : Symbol} (hi : Inv s) (hx : s.tree = some (.leaf x))
    (harm : s.dstate = .atRoot ∨ s.dstate = .midPath) : NodeAt s (.leaf Config.eos) := by
  obtain ⟨l, r, t, ht, hn⟩ | hn := hi.nodeAt harm
  · cases ht.symm.trans hx
    obtain ⟨-, hleaf⟩ := subtree_leaf_eq_some_iff.mp hn
    cases hleaf
  · exact hn

/-- Under a tree that is one leaf the decoder's commands settle the sentinel, or raise (R39, R231). -/
theorem decoder_draws_of_leafRoot {i : Instr} {s t : State} {x : Symbol} (hi : Inv s) (hx : s.tree = some (.leaf x))
    (hcmd : i = .decPass ∨ i = .decBit ∨ i = .decSym) (h : exec i s = .next t) : t.portDraws = s.portDraws := by
  have hraised {e : ErrorKind} (hr : requireArmed s = .raised e s) : t.portDraws = s.portDraws := by
    have hexec : exec i s = .next (s.abort e) := exec_of_requireArmed_raised (by tauto) hr
    cases hexec.symm.trans h
    rfl
  have harmed (harm : s.dstate = .atRoot ∨ s.dstate = .midPath) : t.portDraws = s.portDraws := by
    rw [exec_of_eos harm (hi.nodeAt_eos_of_leafRoot hx harm) hcmd, settleLeaf_eos] at h
    cases h
    rfl
  cases hd : s.dstate with
  | unarmed => exact hraised (requireArmed_of_unarmed hd)
  | done => exact hraised (requireArmed_of_done hd)
  | atRoot => exact harmed (.inl hd)
  | midPath => exact harmed (.inr hd)

/-- Settles O60: `command_spent`, and at a leaf root no port operation at all. -/
theorem portWorkIsBounded : Obligations.PortWorkIsBounded := by
  intro i s t hi h
  refine ⟨?_, fun x hx hcmd => decoder_draws_of_leafRoot hi hx hcmd h⟩
  rw [exec_eq_endCommand] at h
  obtain ⟨u, hu, -, -, hdraws⟩ := ports_of_endCommand h (command_spent i hi)
  rw [hdraws]
  exact hu

end Sys2Proof.Machine
end
